-- ==== Sys2Proof/Word.lean ====
section
/-!
DEFINITION. The word types of the block (spec/00_scope.md R5 and R6). A bit vector's bit `n` is the rule's
`v[n]`, bit 0 least significant; `a ++ b` has `a` in the more significant bits (R8), as `++` has on BitVec.
-/

namespace Sys2Proof

/-- One frame byte (FRAME_BYTES are "4, each 8 bits", R5). -/
abbrev Byte := BitVec 8

/-- A 32-bit frame word; bit `n` is `Dn` (R6). -/
abbrev FrameWord := BitVec 32

/-- A 34-bit command word: CMD in bits 33:32, DIN in bits 31:0 (R50). -/
abbrev CommandWord := BitVec 34

/-- The 16-bit width of the TC_CODE and CJ_CODE ports (CODE_PORT_BITS, R5). -/
abbrev CodeWord := BitVec 16

/-- The received-byte counter's three bits (RXCNT_BITS, R5). -/
abbrev ByteCount := BitVec 3

end Sys2Proof
end

