-- ==== Sys2Proof/Syntax.lean ====
section
/-!
DEFINITION. One constructor for each row of spec/opcode_table.json: the four commands of the command port
(spec/30_encoding.md R51) and the five classes of a frame word (R58).
-/

namespace Sys2Proof

/-- The nine rows. A command keeps the operand R52 gives it and no other DIN bit, since the block ignores those. A
frame class keeps the whole frame word: its operand is FRAME itself (spec/42_fault_classifier.md R105 to R109), and
every bit of it shows on some port. -/
inductive Instr where
  | nop
  | start
  | push (b : Byte)
  | load (w : FrameWord)
  | frameOk (f : FrameWord)
  | frameOc (f : FrameWord)
  | frameScg (f : FrameWord)
  | frameScv (f : FrameWord)
  | frameUnk (f : FrameWord)
deriving DecidableEq, Repr

end Sys2Proof
end

