-- ==== Sys2Proof/WellFormed.lean ====
section
/-!
DEFINITION. Which terms of Instr are instructions: the mask and match columns of spec/30_encoding.md R58.
-/

namespace Sys2Proof

/-- The bits of `f` selected by `mask` have the value `value` (one row of the table of R58). -/
def matchesRow (mask value f : FrameWord) : Bool := f &&& mask == value

/-- A frame class holds a frame word of that class (R58). Every command is well-formed (R51). -/
def Instr.wf : Instr → Bool
  | .nop => true
  | .start => true
  | .push _ => true
  | .load _ => true
  | .frameOk f => matchesRow 0x00010000 0x00000000 f
  | .frameOc f => matchesRow 0x00010001 0x00010001 f
  | .frameScg f => matchesRow 0x00010003 0x00010002 f
  | .frameScv f => matchesRow 0x00010007 0x00010004 f
  | .frameUnk f => matchesRow 0x00010007 0x00010000 f

end Sys2Proof
end

