-- ==== Sys2Proof/Decode.lean ====
section
/-!
DEFINITION. Decoding and encoding (spec/30_encoding.md). The block decodes two kinds of word: the 34-bit command word
of the command port (R50 to R52) and the 32-bit frame word in FRAME (R53, R58). Both decoders are total and refuse
nothing (R51, R57, R74). Only the byte layer refuses, by name: a string of bytes that is neither kind of word.
-/

namespace Sys2Proof

/-- A word to decode, of one of the two kinds of spec/30_encoding.md. -/
inductive Code where
  | command (w : CommandWord)
  | frame (f : FrameWord)
deriving DecidableEq, Repr

/-- Why a string of bytes is no word: fewer than the four bytes of a frame (R59), more than the five of a command
word, or five bytes whose first has a bit above CMD set (log entry 6). -/
inductive Reject where
  | shortFrame (length : Nat)
  | tooLong (length : Nat)
  | bitsAboveCmd (top : BitVec 6)
deriving DecidableEq, Repr

/-! ## The command word -/

/-- The command word with the given CMD and DIN fields (R50). -/
def commandOf (cmd : BitVec 2) (din : BitVec 32) : CommandWord := cmd ++ din

/-- DIN, bits 31:0 of a command word (R50). -/
def commandDin (w : CommandWord) : BitVec 32 := w.extractLsb' 0 32

/-- The command word's instruction, by CMD = bits 33:32 (R51, R74), with the operands of R52. -/
def decodeCommand (w : CommandWord) : Instr :=
  match w.getLsbD 33, w.getLsbD 32 with
  | false, false => .nop
  | false, true => .start
  | true, false => .push ((commandDin w).extractLsb' 0 8)
  | true, true => .load (commandDin w)

/-- `NOP` assembles to 0x000000000 (R62). -/
def nopWord : CommandWord := commandOf 0b00#2 0#32

/-- `START` assembles to 0x100000000 (R62). -/
def startWord : CommandWord := commandOf 0b01#2 0#32

/-- `PUSH b` assembles to 0x200000000 + b (R62). -/
def pushWord (b : Byte) : CommandWord := commandOf 0b10#2 (0#24 ++ b)

/-- `LOAD w` assembles to 0x300000000 + w (R62). -/
def loadWord (w : FrameWord) : CommandWord := commandOf 0b11#2 w

/-! ## The frame word -/

/-- The frame word's class, by D16 and D2..D0 (R58): the priority of spec/42_fault_classifier.md R100 under the flag. -/
def decodeFrame (f : FrameWord) : Instr :=
  match f.getLsbD 16, f.getLsbD 0, f.getLsbD 1, f.getLsbD 2 with
  | false, _, _, _ => .frameOk f
  | true, true, _, _ => .frameOc f
  | true, false, true, _ => .frameScg f
  | true, false, false, true => .frameScv f
  | true, false, false, false => .frameUnk f

/-! ## Both kinds -/

/-- The instruction a word stands for. -/
def decode : Code → Instr
  | .command w => decodeCommand w
  | .frame f => decodeFrame f

/-- The word of an instruction: R62's command words, and a frame class's own frame word. -/
def encode : Instr → Code
  | .nop => .command nopWord
  | .start => .command startWord
  | .push b => .command (pushWord b)
  | .load w => .command (loadWord w)
  | .frameOk f => .frame f
  | .frameOc f => .frame f
  | .frameScg f => .frame f
  | .frameScv f => .frame f
  | .frameUnk f => .frame f

/-! ## Bytes -/

/-- Byte `i` of a frame word in acquisition order: byte0 = D31..D24, …, byte3 = D7..D0 (spec/00_scope.md R6). -/
def frameByte (f : FrameWord) (i : Nat) : Byte := f.extractLsb' (24 - 8 * i) 8

/-- The frame word of four bytes, the first most significant (spec/20_memory.md R42). -/
def joinBytes (b0 b1 b2 b3 : Byte) : FrameWord := b0 ++ b1 ++ b2 ++ b3

/-- A word as bytes: a frame is its four bytes, most significant first (R42); a command word is five, most
significant first, with six zero bits above CMD (log entry 6). -/
def Code.bytes : Code → List Byte
  | .frame f => [frameByte f 0, frameByte f 1, frameByte f 2, frameByte f 3]
  | .command w =>
    let d := commandDin w
    [(w.extractLsb' 32 2).setWidth 8, frameByte d 0, frameByte d 1, frameByte d 2, frameByte d 3]

/-- The word a string of bytes is, or why it is none. -/
def Code.ofBytes : List Byte → Except Reject Code
  | [b0, b1, b2, b3] => .ok (.frame (joinBytes b0 b1 b2 b3))
  | [c, b0, b1, b2, b3] =>
    if c.extractLsb' 2 6 = 0 then .ok (.command (commandOf (c.extractLsb' 0 2) (joinBytes b0 b1 b2 b3)))
    else .error (.bitsAboveCmd (c.extractLsb' 2 6))
  | bs => .error (if bs.length < 4 then .shortFrame bs.length else .tooLong bs.length)

/-- Decode any bytes. -/
def decodeBytes (bs : List Byte) : Except Reject Instr :=
  match Code.ofBytes bs with
  | .ok c => .ok (decode c)
  | .error e => .error e

/-- The bytes of an instruction. -/
def encodeBytes (i : Instr) : List Byte := (encode i).bytes

/-! ## The opcode table's words -/

/-- A table word of `nbits` bits as bytes: up to 32 bits it is a frame word (FRAME32), above that a command word
(CMD34, which the table gives 34 bits and whole bytes make 40). -/
def tableBytes (nbits w : Nat) : List Byte :=
  if nbits ≤ 32 then Code.bytes (.frame (BitVec.ofNat 32 w))
  else BitVec.ofNat 8 (w / 2 ^ 32) :: Code.bytes (.frame (BitVec.ofNat 32 w))

/-- The instruction the decoder reads from the table word `w` of `nbits` bits; none for a number that does not fit
those bits or a command word's five bytes. -/
def decodeTableWord (nbits w : Nat) : Option Instr :=
  if w < 2 ^ nbits ∧ w < 2 ^ 40 then
    match decodeBytes (tableBytes nbits w) with
    | .ok i => some i
    | .error _ => none
  else none

end Sys2Proof
end

