-- ==== Sys2Proof/Machine/State.lean ====
section
/-!
DEFINITION. What the block and its host hold: the two registers of spec/10_state.md R20, and the host's side of the
two ports (the inputs it has issued, the port values it last sampled), which a step has to find in the state.
-/

namespace Sys2Proof.Machine

/-- FAULT_KIND's enumeration, in the source's order (spec/42_fault_classifier.md R100). -/
inductive FaultKind where
  | openCircuit
  | shortToGround
  | shortToSupply
  | unknown
deriving DecidableEq, Repr

/-- STATUS's three values (R102). 0b11 is never driven, so the type has no fourth (93_implementation_defined.md I8). -/
inductive Status where
  | ok
  | fault
  | malformed
deriving DecidableEq, Repr

/-- The output ports of spec/10_state.md R25. -/
structure Ports where
  tcCode : CodeWord
  faultFlag : Bool
  cjCode : CodeWord
  faultBits : BitVec 3
  faultKind : FaultKind
  status : Status
  tcValid : Bool
  cjValid : Bool
  frameOut : FrameWord
  rxcntOut : ByteCount
deriving DecidableEq, Repr

/-- What one step can consume (spec/00_scope.md R10). -/
inductive HostInput where
  /-- A command word on the command port (spec/30_encoding.md R50). -/
  | command (w : CommandWord)
  /-- The reset event (spec/70_reset_and_hazards.md R160), with the command of the same step, if any (R161). -/
  | reset (sameStep : Option CommandWord)
  /-- READ: the host samples the output ports; no command word (spec/30_encoding.md R61). Log entry 3. -/
  | read
deriving DecidableEq, Repr

/-- The machine's faults: none. "The block has no exceptions, no traps and no trap mechanism"
(spec/60_exceptions.md R140); "no input faults, sticks or is refused" (spec/00_scope.md R10). -/
inductive Fault where
deriving DecidableEq, Repr

/-- The machine's refusals. -/
inductive Refusal where
  /-- An instruction without a meaning yet, by its mnemonic. Raised by no arm of exec: every row has its meaning.
  Safe, were it raised. -/
  | notModelled (mnemonic : String)
deriving DecidableEq, Repr

/-- The state. `frame` and `rxcnt` are all the spec gives the block (R20, R28); `sampled` and `inputs` are the
model's own fields for the host (log entries 1 and 3). -/
structure State where
  /-- FRAME[31:0], the frame capture register (spec/10_state.md R21). -/
  frame : FrameWord
  /-- RXCNT[2:0], the received-byte counter (R22). -/
  rxcnt : ByteCount
  /-- The ports as the host last sampled them, none before its first READ. -/
  sampled : Option Ports
  /-- The inputs the host has issued and no step has consumed, next first (spec/20_memory.md R46). -/
  inputs : List HostInput
deriving DecidableEq, Repr

/-- The state after reset: FRAME and RXCNT zero (spec/10_state.md R29). The host has issued and sampled nothing
(log entry 9). -/
def State.reset : State := { frame := 0x00000000#32, rxcnt := 0#3, sampled := none, inputs := [] }

end Sys2Proof.Machine
end

