-- ==== Sys2Proof/Machine/Operands.lean ====
section
/-!
DEFINITION. Field extraction and sign extension (spec/41_field_decode.md), and the source's own byte-level forms of
the same (spec/30_encoding.md R54, spec/41_field_decode.md R82).
-/

namespace Sys2Proof.Machine

/-! ## The fields of the frame word (spec/30_encoding.md R53) -/

/-- TC_RAW = FRAME[31:18] (R80). -/
def tcRaw (f : FrameWord) : BitVec 14 := f.extractLsb' 18 14

/-- TC_CODE = sext_16(TC_RAW), sign bit D31 (R81). -/
def tcCode (f : FrameWord) : CodeWord := (tcRaw f).signExtend 16

/-- FAULT_FLAG = FRAME[16] (R83). -/
def faultFlag (f : FrameWord) : Bool := f.getLsbD 16

/-- CJ_RAW = FRAME[15:4] (R84). -/
def cjRaw (f : FrameWord) : BitVec 12 := f.extractLsb' 4 12

/-- CJ_CODE = sext_16(CJ_RAW), sign bit D15, which is bit 11 of the field (R85, spec/90_conflicts.md C2). -/
def cjCode (f : FrameWord) : CodeWord := (cjRaw f).signExtend 16

/-- FAULT_BITS = FRAME[2:0] = SCV, SCG, OC (R86). -/
def faultBits (f : FrameWord) : BitVec 3 := f.extractLsb' 0 3

/-! ## The source's forms, over unsigned 16-bit integers (spec/00_scope.md R8) -/

/-- `(byte0 << 6) | (byte1 >> 2)` (R54). -/
def tcFromBytes (b0 b1 : Byte) : CodeWord := (b0.setWidth 16 <<< 6) ||| (b1.setWidth 16 >>> 2)

/-- "bit 0 of byte1 (D16)" (R54). -/
def flagFromByte (b1 : Byte) : Bool := b1.getLsbD 0

/-- `(byte2 << 4) | (byte3 >> 4)` (R54). -/
def cjFromBytes (b2 b3 : Byte) : CodeWord := (b2.setWidth 16 <<< 4) ||| (b3.setWidth 16 >>> 4)

/-- `byte3 & 0x7` (R54). -/
def faultBitsFromByte (b3 : Byte) : CodeWord := b3.setWidth 16 &&& 0x7#16

/-- R82: if bit 13 is set, the magnitude `(~value & 0x3FFF) + 1` negated; else the value as it is. -/
def tcByMagnitude (v : CodeWord) : Int :=
  if v.getLsbD 13 then -(((~~~v &&& 0x3FFF#16) + 1#16).toNat : Int) else (v.toNat : Int)

/-- R85's source form: if bit 11 is set, the magnitude `(~value & 0xFFF) + 1` negated; else the value as it is. -/
def cjByMagnitude (v : CodeWord) : Int :=
  if v.getLsbD 11 then -(((~~~v &&& 0xFFF#16) + 1#16).toNat : Int) else (v.toNat : Int)

end Sys2Proof.Machine
end

