-- ==== Sys2Proof/Machine/Flags.lean ====
section
/-!
DEFINITION. The fault classifier mux and the status mux (spec/42_fault_classifier.md), and the output ports as one
function of the state (spec/10_state.md R25). The block stores no flag (R26).
-/

namespace Sys2Proof.Machine

/-- The two-bit code of FAULT_KIND (R100). -/
def FaultKind.code : FaultKind → BitVec 2
  | .openCircuit => 0b00#2
  | .shortToGround => 0b01#2
  | .shortToSupply => 0b10#2
  | .unknown => 0b11#2

/-- The two-bit code of STATUS (R102). -/
def Status.code : Status → BitVec 2
  | .ok => 0b00#2
  | .fault => 0b01#2
  | .malformed => 0b10#2

/-- FAULT_KIND: bit 0 over bit 1 over bit 2 over none (R100, R111), driven whatever the flag is (R101). -/
def faultKind (bits : BitVec 3) : FaultKind :=
  if bits.getLsbD 0 then .openCircuit
  else if bits.getLsbD 1 then .shortToGround
  else if bits.getLsbD 2 then .shortToSupply
  else .unknown

/-- STATUS of a complete frame by its flag, MALFORMED while fewer than four bytes have arrived (R102). -/
def gateStatus (n : ByteCount) (whenComplete : Status) : Status :=
  if n < 4#3 then .malformed else whenComplete

/-- STATUS (R102): MALFORMED over FAULT over OK. -/
def statusOf (n : ByteCount) (flag : Bool) : Status := gateStatus n (if flag then .fault else .ok)

/-- TC_VALID = (STATUS = OK) (R103). -/
def tcValidOf (st : Status) : Bool := decide (st = .ok)

/-- CJ_VALID = (RXCNT = 4) (R104). -/
def cjValidOf (n : ByteCount) : Bool := decide (n = 4#3)

/-- The ports for frame word `f` and byte count `n`, given the classifier's and the status mux's results. -/
def portsWith (f : FrameWord) (n : ByteCount) (k : FaultKind) (st : Status) : Ports where
  tcCode := tcCode f
  faultFlag := faultFlag f
  cjCode := cjCode f
  faultBits := faultBits f
  faultKind := k
  status := st
  tcValid := tcValidOf st
  cjValid := cjValidOf n
  frameOut := f
  rxcntOut := n

/-- The ports as functions of FRAME = `f` and RXCNT = `n` (spec/10_state.md R25). -/
def portsOf (f : FrameWord) (n : ByteCount) : Ports :=
  portsWith f n (faultKind (faultBits f)) (statusOf n (faultFlag f))

/-- out(s): the output ports in state `s` (spec/00_scope.md R10). -/
def State.out (s : State) : Ports := portsOf s.frame s.rxcnt

end Sys2Proof.Machine
end

