-- ==== Sys2Proof/Machine/Ops.lean ====
section
/-!
DEFINITION. The named operations over the registers and the host's side of the ports. There are none over memory
(spec/20_memory.md R40: the block has none), none for taking an exception and none for returning from one
(spec/60_exceptions.md R140, R144, R145: neither exists).
-/

namespace Sys2Proof.Machine

/-- `FRAME <- f; RXCNT <- n` (spec/00_scope.md R9). -/
def State.capture (s : State) (f : FrameWord) (n : ByteCount) : State := { s with frame := f, rxcnt := n }

/-- The block's two registers at their reset values (spec/70_reset_and_hazards.md R160). What the host has issued
and sampled is no state of the block and stays (log entry 9). -/
def State.resetBlock (s : State) : State := s.capture 0x00000000#32 0#3

/-- FRAME shifted left by 8 with `b` in D7..D0 (spec/40_frame_capture.md R72). -/
def shiftByteIn (f : FrameWord) (b : Byte) : FrameWord := f.extractLsb' 0 24 ++ b

/-- One more frame byte, dropped when the frame is complete (R72). -/
def State.acceptByte (s : State) (b : Byte) : State :=
  if s.rxcnt < 4#3 then s.capture (shiftByteIn s.frame b) (s.rxcnt + 1#3) else s

/-- The host samples `p` (spec/30_encoding.md R61). No register changes (spec/20_memory.md R47). -/
def State.record (s : State) (p : Ports) : State := { s with sampled := some p }

/-- The host samples the ports of frame word `f` under the class result `k`, `st` of spec/42_fault_classifier.md R105
to R109. The class applies to a complete frame; otherwise STATUS is MALFORMED (R102, spec/30_encoding.md R58). -/
def State.recordClass (s : State) (f : FrameWord) (k : FaultKind) (st : Status) : State :=
  s.record (portsWith f s.rxcnt k (gateStatus s.rxcnt st))

/-- The step has consumed its input. -/
def State.withInputs (s : State) (xs : List HostInput) : State := { s with inputs := xs }

/-- The host issues `xs` as its next inputs, ahead of those it has issued for later. -/
def State.issue (s : State) (xs : List HostInput) : State := s.withInputs (xs ++ s.inputs)

end Sys2Proof.Machine
end

