-- ==== Sys2Proof/Machine/FrameCapture.lean ====
section
/-!
DEFINITION. The four commands of the command port (spec/40_frame_capture.md R70 to R73). None raises anything, and
none writes a flag directly.
-/

namespace Sys2Proof.Machine

/-- NOP (R70): `FRAME' = FRAME; RXCNT' = RXCNT`. -/
def execNop (s : State) : Host.Outcome State Fault Refusal := .next s

/-- START (R71): `FRAME <- 0x00000000; RXCNT <- 0`. -/
def execStart (s : State) : Host.Outcome State Fault Refusal := .next (s.capture 0x00000000#32 0#3)

/-- PUSH b (R72): the next frame byte, most significant first; dropped after the fourth. -/
def execPush (b : Byte) (s : State) : Host.Outcome State Fault Refusal := .next (s.acceptByte b)

/-- LOAD w (R73): `FRAME <- w; RXCNT <- 4`, with no byte swap (spec/20_memory.md R43). -/
def execLoad (w : FrameWord) (s : State) : Host.Outcome State Fault Refusal := .next (s.capture w 4#3)

end Sys2Proof.Machine
end

