-- ==== Sys2Proof/Machine/FrameClass.lean ====
section
/-!
DEFINITION. The five frame classes (spec/42_fault_classifier.md R105 to R109). Each is the decode of the frame word in
FRAME that the host performs by reading the ports: the host's sample is what the class's rule says the ports show, and
neither register changes (spec/20_memory.md R47). The frame word is the instruction's operand, and the byte count is
the state's: the class applies when RXCNT = 4, and STATUS is MALFORMED while RXCNT < 4 (log entries 4 and 13).
-/

namespace Sys2Proof.Machine

/-- FRAME.OK (R105): a valid reading. FAULT_KIND is driven by the mux and not meaningful (R101, R110). -/
def execFrameOk (f : FrameWord) (s : State) : Host.Outcome State Fault Refusal :=
  .next (s.recordClass f (faultKind (faultBits f)) .ok)

/-- FRAME.OC (R106): OpenCircuit. -/
def execFrameOc (f : FrameWord) (s : State) : Host.Outcome State Fault Refusal :=
  .next (s.recordClass f .openCircuit .fault)

/-- FRAME.SCG (R107): ShortToGround. -/
def execFrameScg (f : FrameWord) (s : State) : Host.Outcome State Fault Refusal :=
  .next (s.recordClass f .shortToGround .fault)

/-- FRAME.SCV (R108): ShortToSupply. -/
def execFrameScv (f : FrameWord) (s : State) : Host.Outcome State Fault Refusal :=
  .next (s.recordClass f .shortToSupply .fault)

/-- FRAME.UNK (R109): the flag set but no bit recognised. -/
def execFrameUnk (f : FrameWord) (s : State) : Host.Outcome State Fault Refusal :=
  .next (s.recordClass f .unknown .fault)

end Sys2Proof.Machine
end

