-- ==== Sys2Proof/Machine/Dispatch.lean ====
section
/-! DEFINITION. One arm for each constructor of Instr, each one direct call of its meaning. -/

namespace Sys2Proof.Machine

def exec (i : Instr) (s : State) : Host.Outcome State Fault Refusal :=
  match i with
  -- the command port (spec/40_frame_capture.md)
  | .nop => Sys2Proof.Machine.execNop s
  | .start => Sys2Proof.Machine.execStart s
  | .push b => Sys2Proof.Machine.execPush b s
  | .load w => Sys2Proof.Machine.execLoad w s
  -- the frame classes (spec/42_fault_classifier.md)
  | .frameOk f => Sys2Proof.Machine.execFrameOk f s
  | .frameOc f => Sys2Proof.Machine.execFrameOc f s
  | .frameScg f => Sys2Proof.Machine.execFrameScg f s
  | .frameScv f => Sys2Proof.Machine.execFrameScv f s
  | .frameUnk f => Sys2Proof.Machine.execFrameUnk f s

end Sys2Proof.Machine
end

