-- ==== Sys2Proof/Machine/Fetch.lean ====
section
/-!
DEFINITION. What the next step is to do: it consumes the host's next input (spec/00_scope.md R10). The block has no
program counter and fetches nothing (spec/10_state.md R24), so this is where an instruction comes from.
-/

namespace Sys2Proof.Machine

/-- Either an instruction to run at a state, or a step that runs none and its state after. -/
inductive Fetched where
  | run (i : Instr) (s : State)
  | done (s : State)
deriving DecidableEq, Repr

/-- A command word is decoded (spec/30_encoding.md R51). RESET wins over a command of the same step (R160, R161).
READ of a complete frame decodes FRAME into its class (R58); while no class applies the host samples the ports as
they are. With no input the block stands still (log entry 2). -/
def fetch (s : State) : Fetched :=
  match s.inputs with
  | [] => .done s
  | .command w :: rest => .run (decode (.command w)) (s.withInputs rest)
  | .reset _ :: rest => .done (s.withInputs rest).resetBlock
  | .read :: rest =>
    if s.rxcnt = 4#3 then .run (decode (.frame s.frame)) (s.withInputs rest)
    else .done ((s.withInputs rest).record s.out)

/-- `s` with the table word `w` as what the next step runs: a command word is the next input; a frame word stands in
FRAME, complete, and the next input reads it (log entry 5). -/
def placeTableWord (s : State) (nbits w : Nat) : State :=
  if nbits ≤ 32 then (s.capture (BitVec.ofNat 32 w) 4#3).issue [.read]
  else s.issue [.command (BitVec.ofNat 34 w)]

end Sys2Proof.Machine
end

