-- ==== Sys2Proof/Machine/Assembler.lean ====
section
/-!
DEFINITION. The assembler of spec/30_encoding.md R60 to R62: lines, their range check, and the inputs they stand for.
It is a tool beside the block (92_eei_decisions.md D24: "Not semantic"). The lexical points R60 leaves open are in log
entry 14.
-/

namespace Sys2Proof.Machine

/-- An assembly line: the four commands and the pseudo-instructions of R60 and R61, and the RESET line that
spec/95_test_vectors.md section 3 writes for the reset event. Immediates are numbers; `inRange` checks them. -/
inductive AsmLine where
  | nop
  | start
  | push (imm : Nat)
  | load (imm : Nat)
  | frame (imm : Nat)
  | frameb (b0 b1 b2 b3 : Nat)
  | read
  | reset
deriving DecidableEq, Repr

/-- The ranges of R60: imm8 in 0..255, imm32 in 0..2^32-1. -/
def AsmLine.inRange : AsmLine → Bool
  | .nop => true
  | .start => true
  | .push n => n < 2 ^ 8
  | .load n => n < 2 ^ 32
  | .frame n => n < 2 ^ 32
  | .frameb b0 b1 b2 b3 => b0 < 2 ^ 8 && b1 < 2 ^ 8 && b2 < 2 ^ 8 && b3 < 2 ^ 8
  | .read => true
  | .reset => true

/-- START and the four bytes of a frame (R61). -/
def frameInputs (b0 b1 b2 b3 : Byte) : List HostInput :=
  [.command startWord, .command (pushWord b0), .command (pushWord b1), .command (pushWord b2), .command (pushWord b3)]

/-- The inputs of a line whose immediates are in range (R61, R62). -/
def AsmLine.inputs : AsmLine → List HostInput
  | .nop => [.command nopWord]
  | .start => [.command startWord]
  | .push n => [.command (pushWord (BitVec.ofNat 8 n))]
  | .load n => [.command (loadWord (BitVec.ofNat 32 n))]
  | .frame n =>
    let w := BitVec.ofNat 32 n
    frameInputs (frameByte w 0) (frameByte w 1) (frameByte w 2) (frameByte w 3)
  | .frameb b0 b1 b2 b3 => frameInputs (BitVec.ofNat 8 b0) (BitVec.ofNat 8 b1) (BitVec.ofNat 8 b2) (BitVec.ofNat 8 b3)
  | .read => [.read]
  | .reset => [.reset none]

/-- Assemble a line: "An immediate out of range is an assembly error. The assembler does not truncate it" (R60). -/
def assemble (l : AsmLine) : Option (List HostInput) := if l.inRange then some l.inputs else none

/-! ## Text -/

/-- Why a line of text is no assembly line. -/
inductive AsmError where
  | unknownLine
  | badImmediate
  | outOfRange
deriving DecidableEq, Repr

/-- "Everything after `;` is a comment" (R60). -/
def stripComment : List Char → List Char
  | [] => []
  | c :: cs => if c = ';' then [] else c :: stripComment cs

/-- White space between words. -/
def isBlank (c : Char) : Bool := c = ' ' || c = '\t' || c = '\r' || c = '\n'

/-- Words, and the comma and the colon as words of their own. `cur` is the word begun so far. -/
def words (cur : List Char) : List Char → List (List Char)
  | [] => if cur = [] then [] else [cur]
  | c :: cs =>
    if isBlank c then (if cur = [] then words [] cs else cur :: words [] cs)
    else if c = ',' || c = ':' then (if cur = [] then [c] :: words [] cs else cur :: [c] :: words [] cs)
    else words (cur ++ [c]) cs

/-- "A line may start with a label `name:`, which has no effect" (R60). -/
def dropLabel : List (List Char) → List (List Char)
  | name :: [':'] :: rest => if name = [','] || name = [':'] then name :: [':'] :: rest else rest
  | ws => ws

/-- A digit's value in bases up to 16. -/
def digitValue (c : Char) : Option Nat :=
  if '0' ≤ c && c ≤ '9' then some (c.toNat - 48)
  else if 'a' ≤ c && c ≤ 'f' then some (c.toNat - 87)
  else if 'A' ≤ c && c ≤ 'F' then some (c.toNat - 55)
  else none

/-- The digits of a number in base `base`, after the value read so far. -/
def digits (base acc : Nat) : List Char → Option Nat
  | [] => some acc
  | c :: cs =>
    match digitValue c with
    | some d => if d < base then digits base (acc * base + d) cs else none
    | none => none

/-- "Immediates are written in hexadecimal `0x..`, binary `0b..` or decimal" (R60). -/
def immediate : List Char → Option Nat
  | [] => none
  | '0' :: 'x' :: c :: cs => digits 16 0 (c :: cs)
  | '0' :: 'b' :: c :: cs => digits 2 0 (c :: cs)
  | cs => digits 10 0 cs

/-- A line with one immediate. -/
def oneImmediate (mk : Nat → AsmLine) (w : List Char) : Except AsmError (Option AsmLine) :=
  match immediate w with
  | some n => .ok (some (mk n))
  | none => .error .badImmediate

/-- The line its words make, `none` for an empty line. -/
def parseWords : List (List Char) → Except AsmError (Option AsmLine)
  | [] => .ok none
  | [m] =>
    if m = ['N', 'O', 'P'] then .ok (some .nop)
    else if m = ['S', 'T', 'A', 'R', 'T'] then .ok (some .start)
    else if m = ['R', 'E', 'A', 'D'] then .ok (some .read)
    else if m = ['R', 'E', 'S', 'E', 'T'] then .ok (some .reset)
    else .error .unknownLine
  | [m, w] =>
    if m = ['P', 'U', 'S', 'H'] then oneImmediate .push w
    else if m = ['L', 'O', 'A', 'D'] then oneImmediate .load w
    else if m = ['F', 'R', 'A', 'M', 'E'] then oneImmediate .frame w
    else .error .unknownLine
  | [m, w0, [','], w1, [','], w2, [','], w3] =>
    if m = ['F', 'R', 'A', 'M', 'E', 'B'] then
      match immediate w0, immediate w1, immediate w2, immediate w3 with
      | some b0, some b1, some b2, some b3 => .ok (some (.frameb b0 b1 b2 b3))
      | _, _, _, _ => .error .badImmediate
    else .error .unknownLine
  | _ => .error .unknownLine

/-- One line of assembly text, with its comment and label dropped. -/
def parseLine (text : List Char) : Except AsmError (Option AsmLine) :=
  parseWords (dropLabel (words [] (stripComment text)))

/-- The inputs of one line of text: none for an empty one, an error for an immediate out of range. -/
def assembleText (text : List Char) : Except AsmError (List HostInput) :=
  match parseLine text with
  | .error e => .error e
  | .ok none => .ok []
  | .ok (some l) =>
    match assemble l with
    | some xs => .ok xs
    | none => .error .outOfRange

end Sys2Proof.Machine
end

