-- ==== Sys2Proof/Config.lean ====
section
/-!
DEFINITION. The two OPEN parameters of spec/00_scope.md R5, T_SETTLE and HostFloat, and the units HostFloat's
conversions are between. Every other parameter of R5 is a number and stands in the types (Word.lean) and in the rules'
own definitions.
-/

namespace Sys2Proof

/-- The enumerated temperature units (spec/43_host_interpretation.md R123). -/
inductive TemperatureUnit where
  | celsius
  | fahrenheit
  | kelvin
  | rankine
deriving DecidableEq, Repr

namespace Config

/-- T_SETTLE, the chip-select settle time of the acquisition collaborator in nanoseconds (R5, R133, R168,
92_eei_decisions.md D26). The spec gives no number and no rule of the block reads it. Log entry 12. -/
opaque settleNanoseconds : Nat

/-- HostFloat's significand (R5, 92_eei_decisions.md D25): its width in bits where the host's format is a binary
floating-point format (R121), none where it is of another kind. The spec gives neither. Log entry 11. -/
opaque hostSignificand : Option Nat

/-- HostFloat's rounding (93_implementation_defined.md I9): the number the format holds in place of an exact value it
cannot be relied on to hold exactly. Nothing constrains it. Log entry 11. -/
opaque hostRound : Rat → Rat

/-- HostFloat's unit conversion: the number the host ends up with for an exact Celsius value converted to a unit other
than Celsius, with whatever roundings its arithmetic does on the way (D25: 273.15, 459.67 and 9/5 "need rounding in
binary"). Nothing constrains it. Log entry 11. -/
opaque hostConvert : TemperatureUnit → Rat → Rat

end Config

end Sys2Proof
end

