-- ==== Sys2Proof/Machine/Run.lean ====
section
/-! DEFINITION. Sequences of steps: "commands take effect in the order the host issues them" (spec/20_memory.md R46). -/

namespace Sys2Proof.Machine

/-- `k` steps, stopping at the first that does not answer a next state (none does stop, R10). -/
def runSteps : Nat → State → Host.Outcome State Fault Refusal
  | 0, s => .next s
  | k + 1, s =>
    match step s with
    | .next t => runSteps k t
    | .fault r => .fault r
    | .refused r => .refused r

/-- The host issues `xs` and the block takes one step for each; inputs issued for later stay pending. -/
def runInputs (xs : List HostInput) (s : State) : Host.Outcome State Fault Refusal :=
  runSteps xs.length (s.issue xs)

end Sys2Proof.Machine
end

