-- ==== Sys2Proof/Machine/HostRead.lean ====
section
/-!
DEFINITION. The host's contract (spec/43_host_interpretation.md): scaling, unit conversion and the read operations.
None of this is behaviour of the block; it reads the block only through the sampled ports. Temperatures are exact
rationals (92_eei_decisions.md D25).
-/

namespace Sys2Proof

/-- The unit of a host's unit code; an unrecognised code falls back to Celsius (R123, R127). -/
def TemperatureUnit.ofCode : Nat → TemperatureUnit
  | 1 => .fahrenheit
  | 2 => .kelvin
  | 3 => .rankine
  | _ => .celsius

namespace Machine

/-! ## Scaling -/

/-- `tcCelsius = sint_16(TC_CODE) / 4` (R120). -/
def tcCelsius (code : CodeWord) : Rat := (code.toInt : Rat) / 4

/-- `cjCelsius = sint_16(CJ_CODE) / 16` (R122). -/
def cjCelsius (code : CodeWord) : Rat := (code.toInt : Rat) / 16

/-! ## Unit conversion -/

/-- A Celsius value in the unit (R124 to R127). -/
def convert (u : TemperatureUnit) (c : Rat) : Rat :=
  match u with
  | .celsius => c
  | .fahrenheit => c * 9 / 5 + 32
  | .kelvin => c + 27315 / 100
  | .rankine => (c + 27315 / 100) * 9 / 5

/-! ## Results -/

/-- Why a read gives no number (R128, spec/60_exceptions.md R141). -/
inductive ReadError where
  | malformedFrame
  | sensor (k : FaultKind)
deriving DecidableEq, Repr

/-- A typed result (R131). -/
inductive ReadResult where
  | ok (t : Rat)
  | err (e : ReadError)
deriving DecidableEq, Repr

/-- What readTemperature makes of the sampled ports (R128): STATUS first, then FAULT_KIND or TC_CODE. It looks at no
port that STATUS does not qualify (93_implementation_defined.md I1, I2, I4). -/
def temperatureResult (unitCode : Nat) (p : Ports) : ReadResult :=
  match p.status with
  | .malformed => .err .malformedFrame
  | .fault => .err (.sensor p.faultKind)
  | .ok => .ok (convert (.ofCode unitCode) (tcCelsius p.tcCode))

/-- What readColdJunctionTemperature makes of them (R129): Celsius whatever the flag is, and MalformedFrame when
STATUS is MALFORMED (90_conflicts.md C3). -/
def coldJunctionResult (p : Ports) : ReadResult :=
  match p.status with
  | .malformed => .err .malformedFrame
  | .fault => .ok (cjCelsius p.cjCode)
  | .ok => .ok (cjCelsius p.cjCode)

/-! ## The host's floating-point format (HostFloat, 92_eei_decisions.md D25) -/

/-- `q` is a significand of at most `p` bits times a power of two: its denominator is a power of two, and its
numerator has nothing below its `p` leading bits. A binary format with such a significand holds it without rounding
(R121). -/
def fitsSignificand (p : Nat) (q : Rat) : Bool :=
  decide (q.den = 2 ^ q.den.log2 ∧ q.num.natAbs % 2 ^ (q.num.natAbs.log2 + 1 - p) = 0)

/-- What a format holds for the exact value `q`, its significand being `p` bits wide if it is a binary format: `q`
itself where that fits, else what its rounding makes of `q`. -/
def heldIn (significand : Option Nat) (q : Rat) : Rat :=
  match significand with
  | some p => if fitsSignificand p q then q else Config.hostRound q
  | none => Config.hostRound q

/-- A Celsius value in the unit, in that format: Celsius is unchanged but for what the format holds (R127); the other
conversions round in ways the spec does not give. -/
def convertIn (significand : Option Nat) (u : TemperatureUnit) (c : Rat) : Rat :=
  match u with
  | .celsius => heldIn significand c
  | .fahrenheit => Config.hostConvert .fahrenheit c
  | .kelvin => Config.hostConvert .kelvin c
  | .rankine => Config.hostConvert .rankine c

/-- readTemperature's result in that format. The unit code is read as in `temperatureResult`, an unrecognised one as
Celsius (R127). -/
def temperatureFloatIn (significand : Option Nat) (unitCode : Nat) (p : Ports) : ReadResult :=
  match p.status with
  | .malformed => .err .malformedFrame
  | .fault => .err (.sensor p.faultKind)
  | .ok => .ok (convertIn significand (.ofCode unitCode) (tcCelsius p.tcCode))

/-- readColdJunctionTemperature's result in that format, in Celsius (R129). -/
def coldJunctionFloatIn (significand : Option Nat) (p : Ports) : ReadResult :=
  match p.status with
  | .malformed => .err .malformedFrame
  | .fault => .ok (heldIn significand (cjCelsius p.cjCode))
  | .ok => .ok (heldIn significand (cjCelsius p.cjCode))

/-- readTemperature's result in the host's own format. -/
def temperatureFloat (unitCode : Nat) (p : Ports) : ReadResult := temperatureFloatIn Config.hostSignificand unitCode p

/-- readColdJunctionTemperature's result in the host's own format. -/
def coldJunctionFloat (p : Ports) : ReadResult := coldJunctionFloatIn Config.hostSignificand p

/-! ## The read operations -/

/-- The acquisition of R128 and R133: START, one PUSH for each byte the transport delivered, READ. -/
def acquireInputs (bytes : List Byte) : List HostInput :=
  .command startWord :: (bytes.map fun b => .command (pushWord b)) ++ [.read]

/-- A read operation: acquire `bytes` against the block in state `s`, then apply `result` to the sampled ports. It
answers the result and the state it leaves. -/
def readWith (result : Ports → ReadResult) (bytes : List Byte) (s : State) : Option (ReadResult × State) :=
  match runInputs (acquireInputs bytes) s with
  | .next t => t.sampled.map fun p => (result p, t)
  | .fault _ => none
  | .refused _ => none

/-- `readTemperature(unit)` (R128), where `bytes` is what the transport delivers. -/
def readTemperature (unitCode : Nat) (bytes : List Byte) (s : State) : Option (ReadResult × State) :=
  readWith (temperatureResult unitCode) bytes s

/-- `readColdJunctionTemperature()` (R129). -/
def readColdJunctionTemperature (bytes : List Byte) (s : State) : Option (ReadResult × State) :=
  readWith coldJunctionResult bytes s

/-- `readTempF()` (R130). -/
def readTempF (bytes : List Byte) (s : State) : Option (ReadResult × State) := readTemperature 1 bytes s

/-- `readTempK()` (R130). -/
def readTempK (bytes : List Byte) (s : State) : Option (ReadResult × State) := readTemperature 2 bytes s

/-- `readTempR()` (R130). -/
def readTempR (bytes : List Byte) (s : State) : Option (ReadResult × State) := readTemperature 3 bytes s

end Machine

end Sys2Proof
end

