-- ==== Sys2Proof/Machine/Instances.lean ====
section
/-!
DEFINITION. Several instances of the block (spec/60_exceptions.md R148): each has its own FRAME and RXCNT, and they
share nothing. An instance has no identifier of its own; the place in the list is the platform's.
-/

namespace Sys2Proof.Machine

/-- One step of the instance at place `k`; no other instance moves. None where there is no such place. -/
def stepInstance (k : Nat) (blocks : List State) : Option (List State) :=
  match blocks[k]? with
  | none => none
  | some s =>
    match step s with
    | .next t => some (blocks.set k t)
    | .fault _ => none
    | .refused _ => none

end Sys2Proof.Machine
end

