-- ==== Sys2Proof/Safety.lean ====
section
/-!
DEFINITION. What a state of a safe run satisfies. No step of this machine stops (spec/00_scope.md R10), so safety is
the legality of the two registers and of what the host has sampled.
-/

namespace Sys2Proof.Machine

/-- FRAME and RXCNT are legal together: RXCNT is at most 4 (spec/10_state.md R30), and FRAME holds no more than the
RXCNT bytes received, right-aligned (R31). -/
def legalCapture (f : FrameWord) (n : ByteCount) : Prop := n.toNat ≤ 4 ∧ f.toNat < 2 ^ (8 * n.toNat)

/-- Ports that a legal state of the block drives. -/
def legalSample (p : Ports) : Prop := p = portsOf p.frameOut p.rxcntOut ∧ legalCapture p.frameOut p.rxcntOut

/-- The invariant of every run. -/
def State.Inv (s : State) : Prop := legalCapture s.frame s.rxcnt ∧ ∀ p, s.sampled = some p → legalSample p

end Sys2Proof.Machine
end

