-- ==== Sys2Proof/Certificates/Slice0/Obligations.lean ====
section
/-!
DEFINITION. The statements for the provers. Each docstring names the rule of spec/ it formalises; the kind and the
tier stand in OBLIGATIONS.json. A state is any state, reachable or not, unless a hypothesis says otherwise.
-/

open Sys2Proof Sys2Proof.Machine

/-! ## Steps, inputs and reset -/

/-- R10, R46, R161: the next input decides the step. A command word is decoded and run; RESET puts the two registers
at their reset values and discards a command of the same step; READ of a complete frame runs FRAME's class; READ
otherwise, and an empty queue (log entry 2), change no register. The input is consumed. -/
def Obligations.StepRunsTheNextInput : Prop :=
  ∀ (s : State) (rest : List HostInput),
    (∀ w, s.inputs = .command w :: rest → step s = exec (decode (.command w)) { s with inputs := rest }) ∧
    (∀ c, s.inputs = .reset c :: rest → step s = .next { s with frame := 0#32, rxcnt := 0#3, inputs := rest }) ∧
    (s.inputs = .read :: rest → s.rxcnt = 4#3 →
      step s = exec (decode (.frame s.frame)) { s with inputs := rest }) ∧
    (s.inputs = .read :: rest → s.rxcnt ≠ 4#3 →
      step s = .next { s with sampled := some s.out, inputs := rest }) ∧
    (s.inputs = [] → step s = .next s)

/-- The same through bytes: where the word the next input offers is the bytes of a well-formed instruction, the step
is exec of that instruction, the input consumed (log entries 4 and 6 for the bytes and for frame words). -/
def Obligations.StepRunsTheDecodedInstruction : Prop :=
  ∀ (s : State) (i : Instr) (rest : List HostInput), i.wf = true →
    (∀ w, s.inputs = .command w :: rest → decodeBytes (Code.bytes (.command w)) = .ok i →
      step s = exec i { s with inputs := rest }) ∧
    (s.inputs = .read :: rest → s.rxcnt = 4#3 → decodeBytes (Code.bytes (.frame s.frame)) = .ok i →
      step s = exec i { s with inputs := rest })

/-- R10: "Every input has exactly one successor state: no input faults, sticks or is refused". With an input pending
the step consumes exactly it. -/
def Obligations.EveryStepAnswersAndConsumesOneInput : Prop :=
  ∀ s : State, ∃ t, step s = .next t ∧ t.inputs = s.inputs.tail

/-- R46: commands take effect in the order the host issues them, so a run over `xs` and then `ys` is a run over both,
and inputs issued for later stay pending. -/
def Obligations.RunsComposeInOrder : Prop :=
  ∀ (xs ys : List HostInput) (s : State),
    ∃ t u, runInputs xs s = .next t ∧ runInputs ys t = .next u ∧ runInputs (xs ++ ys) s = .next u ∧
      t.inputs = s.inputs ∧ u.inputs = s.inputs

/-- After R160 and R161: RESET from any state, with or without a command in the same step, leaves FRAME and RXCNT
zero, and the ports as R160's table has them. That the host's sample stays is the model's choice (log entry 9), and
that RESET is an input of the queue is log entry 1's. -/
def Obligations.ResetWinsAndClearsTheBlock : Prop :=
  ∀ (s : State) (c : Option CommandWord) (rest : List HostInput), s.inputs = .reset c :: rest →
    ∃ t, step s = .next t ∧ t.frame = 0x00000000#32 ∧ t.rxcnt = 0#3 ∧ t.sampled = s.sampled ∧ t.inputs = rest ∧
      t.out.tcCode = 0x0000#16 ∧ t.out.faultFlag = false ∧ t.out.cjCode = 0x0000#16 ∧ t.out.faultBits = 0b000#3 ∧
      t.out.faultKind.code = 0b11#2 ∧ t.out.status.code = 0b10#2 ∧ t.out.tcValid = false ∧ t.out.cjValid = false ∧
      t.out.frameOut = 0x00000000#32 ∧ t.out.rxcntOut = 0#3

/-- R29: the reset values of the two registers. -/
def Obligations.ResetStateHoldsZeroRegisters : Prop :=
  State.reset.frame = 0x00000000#32 ∧ State.reset.rxcnt = 0#3

/-- R21, R22: a step that changes FRAME or RXCNT consumed RESET or a command word that decodes to START, PUSH or
LOAD. NOP and READ change neither. -/
def Obligations.OnlyCaptureAndResetWriteTheRegisters : Prop :=
  ∀ s t : State, step s = .next t → (t.frame ≠ s.frame ∨ t.rxcnt ≠ s.rxcnt) →
    (∃ c rest, s.inputs = .reset c :: rest) ∨
    (∃ w rest, s.inputs = .command w :: rest ∧
      (decode (.command w) = .start ∨ (∃ b, decode (.command w) = .push b) ∨ (∃ f, decode (.command w) = .load f)))

/-- The invariant holds after reset. -/
def Obligations.ResetMeetsTheInvariant : Prop := State.reset.Inv

/-- R30 and R31 as an invariant of every step: RXCNT stays at most 4, FRAME holds no more than the RXCNT bytes
received, right-aligned, and what the host has sampled are ports such a state drives. -/
def Obligations.EveryStepKeepsTheInvariant : Prop :=
  ∀ s t : State, s.Inv → step s = .next t → t.Inv

/-- After R148, with instances as a list of States (log entry 15): two instances step independently. A step of one
answers, moves it as it would move alone and leaves every other as it is; and steps of two different instances give
the same in either order. -/
def Obligations.InstancesAreIndependent : Prop :=
  ∀ (j k : Nat) (blocks : List State) (s : State), blocks[k]? = some s →
    (∃ t after, step s = .next t ∧ stepInstance k blocks = some after ∧ after[k]? = some t ∧
      (∀ i, i ≠ k → after[i]? = blocks[i]?)) ∧
    (j ≠ k → ∀ r, blocks[j]? = some r →
      ((stepInstance j blocks).bind fun a => stepInstance k a) = ((stepInstance k blocks).bind fun b => stepInstance j b))

/-- R30: from reset, by any inputs whatever, RXCNT is at most 4. -/
def Obligations.ReachableCountsAreLegal : Prop :=
  ∀ xs : List HostInput, ∃ t, runInputs xs State.reset = .next t ∧ t.rxcnt.toNat ≤ 4

/-! ## Encoding -/

/-- R51 and R74: CMD alone selects the command, whatever DIN is, and every command word is one of the four. -/
def Obligations.CmdFieldSelectsTheCommand : Prop :=
  ∀ w : CommandWord,
    (w.extractLsb' 32 2 = 0b00#2 → decode (.command w) = .nop) ∧
    (w.extractLsb' 32 2 = 0b01#2 → decode (.command w) = .start) ∧
    (w.extractLsb' 32 2 = 0b10#2 → decode (.command w) = .push (w.extractLsb' 0 8)) ∧
    (w.extractLsb' 32 2 = 0b11#2 → decode (.command w) = .load (w.extractLsb' 0 32)) ∧
    (w.extractLsb' 32 2 = 0b00#2 ∨ w.extractLsb' 32 2 = 0b01#2 ∨ w.extractLsb' 32 2 = 0b10#2 ∨
      w.extractLsb' 32 2 = 0b11#2)

/-- R52: the DIN bits a command does not use change nothing: any two NOP words, any two START words, and any two PUSH
words with the same DIN[7:0] have the same effect in every state. -/
def Obligations.UnusedDinBitsChangeNothing : Prop :=
  ∀ (v w : CommandWord) (s : State), v.extractLsb' 32 2 = w.extractLsb' 32 2 →
    (v.extractLsb' 32 2 = 0b00#2 ∨ v.extractLsb' 32 2 = 0b01#2 ∨
      (v.extractLsb' 32 2 = 0b10#2 ∧ v.extractLsb' 0 8 = w.extractLsb' 0 8)) →
    exec (decode (.command v)) s = exec (decode (.command w)) s

/-- R62: the four command words. -/
def Obligations.AssembledCommandWords : Prop :=
  encode .nop = .command 0x000000000#34 ∧ encode .start = .command 0x100000000#34 ∧
  (∀ b : Byte, ∃ w, encode (.push b) = .command w ∧ w.toNat = 0x200000000 + b.toNat) ∧
  (∀ f : FrameWord, ∃ w, encode (.load f) = .command w ∧ w.toNat = 0x300000000 + f.toNat)

/-- After R60, R61, R62 and R75: an immediate out of range is an error, never truncated (R60); in range, PUSH and LOAD
assemble to their one command (R62), FRAME and FRAMEB expand to START and four PUSHes, most significant byte first
(R61), which capture the word (R75), and READ emits no command word (R61). That READ assembles to an input of its own
is the model's choice (log entry 3). -/
def Obligations.AssemblyLinesExpand : Prop :=
  ∀ (n b0 b1 b2 b3 : Nat) (s : State),
    let push := fun b : Byte => HostInput.command (pushWord b)
    let w := BitVec.ofNat 32 n
    let frame := [.command startWord, push (w.extractLsb' 24 8), push (w.extractLsb' 16 8), push (w.extractLsb' 8 8),
      push (w.extractLsb' 0 8)]
    let frameb := [.command startWord, push (BitVec.ofNat 8 b0), push (BitVec.ofNat 8 b1), push (BitVec.ofNat 8 b2),
      push (BitVec.ofNat 8 b3)]
    (assemble (.push n) = if n < 256 then some [push (BitVec.ofNat 8 n)] else none) ∧
    (assemble (.load n) = if n < 4294967296 then some [.command (loadWord w)] else none) ∧
    (assemble (.frame n) = if n < 4294967296 then some frame else none) ∧
    (assemble (.frameb b0 b1 b2 b3) = if b0 < 256 ∧ b1 < 256 ∧ b2 < 256 ∧ b3 < 256 then some frameb else none) ∧
    (assemble .nop = some [.command nopWord] ∧ assemble .start = some [.command startWord] ∧
      assemble .read = some [.read]) ∧
    runInputs frame s = .next { s with frame := w, rxcnt := 4#3 } ∧
    (b0 < 256 → b1 < 256 → b2 < 256 → b3 < 256 → runInputs frameb s = .next
        { s with frame := BitVec.ofNat 32 (((b0 * 256 + b1) * 256 + b2) * 256 + b3), rxcnt := 4#3 })

/-- R60: "Everything after `;` is a comment": text after the first `;` does not change what a line is. -/
def Obligations.CommentsDoNotChangeALine : Prop :=
  ∀ line comment : List Char, ';' ∉ line → parseLine (line ++ ';' :: comment) = parseLine line

/-- R58: exactly one of the five mask and match rows holds of a frame word, the decoder answers that class holding
the word itself, and the answer is well-formed. While RXCNT < 4, STATUS is MALFORMED whatever FRAME holds. -/
def Obligations.EveryFrameWordHasOneClass : Prop :=
  ∀ f : FrameWord,
    ([(0x00010000, 0x00000000), (0x00010001, 0x00010001), (0x00010003, 0x00010002), (0x00010007, 0x00010004),
      (0x00010007, 0x00010000)].countP fun row : FrameWord × FrameWord => f &&& row.1 == row.2) = 1 ∧
    (decode (.frame f) = .frameOk f ↔ f &&& 0x00010000 = 0x00000000) ∧
    (decode (.frame f) = .frameOc f ↔ f &&& 0x00010001 = 0x00010001) ∧
    (decode (.frame f) = .frameScg f ↔ f &&& 0x00010003 = 0x00010002) ∧
    (decode (.frame f) = .frameScv f ↔ f &&& 0x00010007 = 0x00010004) ∧
    (decode (.frame f) = .frameUnk f ↔ f &&& 0x00010007 = 0x00010000) ∧
    (decode (.frame f)).wf = true ∧
    (∀ n : ByteCount, n.toNat < 4 → (portsOf f n).status.code = 0b10#2)

/-- Decoding the bytes of any well-formed instruction gives it back, every operand at every value. -/
def Obligations.DecodeOfEncodeIsTheInstruction : Prop :=
  ∀ i : Instr, i.wf = true → decodeBytes (encodeBytes i) = .ok i

/-- The other direction: what any bytes decode to is well-formed, and encodes to those bytes again for a frame word
and to the same command with its unused bits zero for a command word. The four bytes of a frame are R42's; the five
bytes of a command word, which the LOAD and PUSH clauses rest on, are the model's choice (log entry 6). -/
def Obligations.EncodeOfDecodeKeepsUsedBits : Prop :=
  ∀ (bs : List Byte) (i : Instr), decodeBytes bs = .ok i → i.wf = true ∧ decodeBytes (encodeBytes i) = .ok i ∧
    (bs.length = 4 → encodeBytes i = bs) ∧
    (∀ w, i = .load w → encodeBytes i = bs) ∧ (∀ b, i = .push b → bs.getLast? = some b)

/-- Which strings of bytes are refused, and by which name (log entry 6): fewer than four, more than five, and five
with a bit above CMD set. Nothing else is (R57, R74). -/
def Obligations.OnlyMisshapenBytesAreRefused : Prop :=
  ∀ bs : List Byte,
    (bs.length < 4 → decodeBytes bs = .error (.shortFrame bs.length)) ∧
    (5 < bs.length → decodeBytes bs = .error (.tooLong bs.length)) ∧
    (bs.length = 4 → ∃ i, decodeBytes bs = .ok i) ∧
    (∀ c rest, bs = c :: rest → rest.length = 4 →
      ((c.toNat < 4 → ∃ i, decodeBytes bs = .ok i) ∧
       (4 ≤ c.toNat → decodeBytes bs = .error (.bitsAboveCmd (c.extractLsb' 2 6)))))

/-- Words written out from R53, R58 and R62 decode to what they stand for. The last clause, that a 40-bit number with
a bit above CMD is no word, is the model's choice (log entry 6). -/
def Obligations.SampleWordsDecode : Prop :=
  decodeTableWord 40 0x0FFFFFFFF = some .nop ∧ decodeTableWord 40 0x112345678 = some .start ∧
  decodeTableWord 40 0x2ABCDEF12 = some (.push 0x12#8) ∧ decodeTableWord 40 0x3F061C903 = some (.load 0xF061C903#32) ∧
  decodeTableWord 32 0x3E807F00 = some (.frameOk 0x3E807F00#32) ∧
  decodeTableWord 32 0xF061C903 = some (.frameOc 0xF061C903#32) ∧
  decodeTableWord 32 0x01911906 = some (.frameScg 0x01911906#32) ∧
  decodeTableWord 32 0x01911904 = some (.frameScv 0x01911904#32) ∧
  decodeTableWord 32 0x01911900 = some (.frameUnk 0x01911900#32) ∧ decodeTableWord 40 0x400000000 = none

/-! ## Frame capture -/

/-- R70: a command word with CMD = 00 is NOP whatever its DIN, and NOP answers a next state: the same one, FRAME,
RXCNT, every port and the host's side as they were. -/
def Obligations.NopChangesNothing : Prop :=
  ∀ (din : BitVec 32) (s : State), decode (.command (commandOf 0b00#2 din)) = .nop ∧ exec .nop s = .next s

/-- R71: a command word with CMD = 01 is START whatever its DIN; START clears FRAME and RXCNT and changes nothing
else; afterwards STATUS is MALFORMED, TC_VALID 0 and CJ_VALID 0. -/
def Obligations.StartBeginsAFrame : Prop :=
  ∀ (din : BitVec 32) (s : State), decode (.command (commandOf 0b01#2 din)) = .start ∧
    ∃ t, exec .start s = .next t ∧ t = { s with frame := 0x00000000#32, rxcnt := 0#3 } ∧
      t.out.status.code = 0b10#2 ∧ t.out.tcValid = false ∧ t.out.cjValid = false

/-- R72: a command word with CMD = 10 is PUSH of DIN[7:0], whatever DIN[31:8] is. PUSH while RXCNT < 4 moves each bit
of FRAME up by eight, puts the byte in D7..D0, counts it, and changes nothing else, and STATUS leaves MALFORMED with
the PUSH that makes RXCNT = 4; otherwise PUSH changes nothing at all. It always answers a next state. -/
def Obligations.PushShiftsTheByteIn : Prop :=
  ∀ (din : BitVec 32) (b : Byte) (s : State),
    decode (.command (commandOf 0b10#2 din)) = .push (din.extractLsb' 0 8) ∧
    (s.rxcnt.toNat < 4 → ∃ t, exec (.push b) s = .next t ∧
      (∀ n, t.frame.getLsbD n =
        if n < 8 then b.getLsbD n else (decide (n < 32) && s.frame.getLsbD (n - 8))) ∧
      t.rxcnt.toNat = s.rxcnt.toNat + 1 ∧ t.sampled = s.sampled ∧ t.inputs = s.inputs ∧
      (t.out.status.code ≠ 0b10#2 ↔ t.rxcnt = 4#3)) ∧
    (4 ≤ s.rxcnt.toNat → exec (.push b) s = .next s)

/-- R165 and R72: in the very state the fourth byte's PUSH produces, FRAME is the three bytes held and the new one,
STATUS is by that frame's D16 and CJ_VALID is 1; one step before, STATUS was MALFORMED. -/
def Obligations.FourthByteCompletesTheFrame : Prop :=
  ∀ (b : Byte) (s : State), s.rxcnt.toNat = 3 →
    ∃ t, exec (.push b) s = .next t ∧ t.rxcnt = 4#3 ∧ t.frame.toNat = s.frame.toNat % 2 ^ 24 * 2 ^ 8 + b.toNat ∧
      s.out.status = .malformed ∧ t.out.status = (if s.frame.getLsbD 8 then .fault else .ok) ∧ t.out.cjValid = true

/-- R73: a command word with CMD = 11 is LOAD of DIN; LOAD w makes FRAME = w, bit for bit, and RXCNT = 4 and changes
nothing else; STATUS becomes OK or FAULT by w[16]. -/
def Obligations.LoadDeliversAFrame : Prop :=
  ∀ (w : FrameWord) (s : State), decode (.command (commandOf 0b11#2 w)) = .load w ∧
    ∃ t, exec (.load w) s = .next t ∧ t = { s with frame := w, rxcnt := 4#3 } ∧
      t.out.status.code = (if w.getLsbD 16 then 0b01#2 else 0b00#2)

/-- R75, with R42 and R43: from any state, START and the four bytes of `w`, most significant first, with any number
of NOPs between them, reach the state that LOAD w reaches: FRAME = w, RXCNT = 4, all else as it was. -/
def Obligations.BothCapturePathsAgree : Prop :=
  ∀ (w : FrameWord) (n1 n2 n3 n4 : Nat) (s : State),
    let nops := fun n => List.replicate n (HostInput.command nopWord)
    let byte := fun lo => HostInput.command (pushWord (w.extractLsb' lo 8))
    runInputs (.command startWord :: nops n1 ++ byte 24 :: nops n2 ++ byte 16 :: nops n3 ++ byte 8 :: nops n4 ++
        [byte 0]) s = .next { s with frame := w, rxcnt := 4#3 } ∧
    runInputs [.command (loadWord w)] s = .next { s with frame := w, rxcnt := 4#3 }

/-- After R31: START (or RESET) and then k ≤ 4 PUSHes, with any NOPs before, between and after them, leave RXCNT = k
and FRAME the zero-extended join of the bytes. An input `some b` is a PUSH of `b`, `none` a NOP. That RESET leaves the
host's sample is the model's choice (log entry 9). -/
def Obligations.PartialFramesAreRightAligned : Prop :=
  ∀ (xs : List (Option Byte)) (first : HostInput) (s : State),
    let bytes := xs.filterMap id
    let input := fun x : Option Byte => HostInput.command (match x with | some b => pushWord b | none => nopWord)
    bytes.length ≤ 4 → (first = .command startWord ∨ ∃ c, first = .reset c) →
    ∃ t, runInputs (first :: xs.map input) s = .next t ∧ t.rxcnt.toNat = bytes.length ∧
      t.frame.toNat = bytes.foldl (fun acc b => acc * 256 + b.toNat) 0 ∧ t.sampled = s.sampled ∧ t.inputs = s.inputs

/-- R162: right after reset, four PUSHes with no START capture a frame. -/
def Obligations.FourBytesAfterResetMakeAFrame : Prop :=
  ∀ b0 b1 b2 b3 : Byte,
    runInputs ([b0, b1, b2, b3].map fun b => .command (pushWord b)) State.reset =
      .next { State.reset with frame := b0 ++ b1 ++ b2 ++ b3, rxcnt := 4#3 }

/-- R163 and R166: after a complete frame, any run of NOPs and PUSHes leaves the block as it is, a whole second
frame pushed without START among them. -/
def Obligations.CompleteFramesStayUntilReplaced : Prop :=
  ∀ (xs : List HostInput) (s : State), s.rxcnt = 4#3 →
    (∀ x ∈ xs, ∃ w, x = .command w ∧ (decode (.command w) = .nop ∨ ∃ b, decode (.command w) = .push b)) →
    runInputs xs s = .next s

/-- Derived from R142, R145 and R88: nothing is carried over a START, LOAD or RESET. Two blocks in any two states,
given the same inputs from a START, LOAD or RESET on, drive the same ports at the end of every such sequence. A host
that READs in between has the same sample of both: that a READ stores a sample in State is the model's choice
(notes/assumptions/3.md), so the sample clause is no rule of the spec. -/
def Obligations.NothingIsCarriedOverAFrameStart : Prop :=
  ∀ (first : HostInput) (xs : List HostInput) (s t : State),
    ((∃ w, first = .command w ∧ (decode (.command w) = .start ∨ ∃ f, decode (.command w) = .load f)) ∨
      (∃ c, first = .reset c)) →
    ∃ s' t', runInputs (first :: xs) s = .next s' ∧ runInputs (first :: xs) t = .next t' ∧ s'.out = t'.out ∧
      (HostInput.read ∈ xs → s'.sampled = t'.sampled)

/-! ## Field decode -/

/-- R80, R81: TC_CODE is D31..D18 as a signed integer, in range, its bit n the frame's bit n + 18 and its two top
bits copies of bit 13. -/
def Obligations.ThermocoupleCodeIsSignExtended : Prop :=
  ∀ (f : FrameWord) (n : ByteCount),
    let raw : Nat := f.toNat / 2 ^ 18
    let code := (portsOf f n).tcCode
    code.toInt = (if raw < 8192 then (raw : Int) else (raw : Int) - 16384) ∧
    -8192 ≤ code.toInt ∧ code.toInt ≤ 8191 ∧ (∀ i, i < 14 → code.getLsbD i = f.getLsbD (i + 18)) ∧
    code.getLsbD 15 = code.getLsbD 13 ∧ code.getLsbD 14 = code.getLsbD 13

/-- R85: CJ_CODE is D15..D4 as a signed integer, its sign bit D15 (90_conflicts.md C2), and the source's magnitude
form gives the same integer, with magnitude 2048 for 0x800. -/
def Obligations.ColdJunctionCodeIsSignExtended : Prop :=
  ∀ (f : FrameWord) (n : ByteCount),
    let raw : Nat := f.toNat % 2 ^ 16 / 2 ^ 4
    let code := (portsOf f n).cjCode
    code.toInt = (if raw < 2048 then (raw : Int) else (raw : Int) - 4096) ∧
    -2048 ≤ code.toInt ∧ code.toInt ≤ 2047 ∧ (∀ i, i < 12 → code.getLsbD i = f.getLsbD (i + 4)) ∧
    (∀ i, 12 ≤ i → i < 16 → code.getLsbD i = f.getLsbD 15) ∧
    cjByMagnitude ((cjRaw f).setWidth 16) = code.toInt ∧ cjByMagnitude 0x800#16 = -2048

/-- R83, R86, R87: the flag, the fault bits and the two readback ports. -/
def Obligations.FlagAndReadbackPorts : Prop :=
  ∀ s : State, s.out.faultFlag = s.frame.getLsbD 16 ∧ s.out.faultBits.toNat = s.frame.toNat % 8 ∧
    s.out.faultBits.getLsbD 0 = s.frame.getLsbD 0 ∧ s.out.faultBits.getLsbD 1 = s.frame.getLsbD 1 ∧
    s.out.faultBits.getLsbD 2 = s.frame.getLsbD 2 ∧ s.out.frameOut = s.frame ∧ s.out.rxcntOut = s.rxcnt

/-- R54: the source's byte formulas select exactly the fields, for every four bytes, and need no mask. -/
def Obligations.ByteFormulasSelectTheFields : Prop :=
  ∀ b0 b1 b2 b3 : Byte,
    let f : FrameWord := b0 ++ b1 ++ b2 ++ b3
    (tcFromBytes b0 b1).toNat = (tcRaw f).toNat ∧ flagFromByte b1 = faultFlag f ∧
    (cjFromBytes b2 b3).toNat = (cjRaw f).toNat ∧ (faultBitsFromByte b3).toNat = (faultBits f).toNat ∧
    (b0.setWidth 16 <<< 6).toNat ≤ 0x3FC0 ∧ (b1.setWidth 16 >>> 2).toNat ≤ 0x3F

/-- R82: the source's magnitude form gives the two's-complement integer for every 14-bit field; the magnitude is in
1..0x2000 and is 8192 for 0x2000. -/
def Obligations.MagnitudeFormAgrees : Prop :=
  (∀ v : BitVec 14, tcByMagnitude (v.setWidth 16) = v.toInt ∧
    (v.getLsbD 13 = true → 1 ≤ ((~~~(v.setWidth 16) &&& 0x3FFF#16) + 1#16).toNat ∧
      ((~~~(v.setWidth 16) &&& 0x3FFF#16) + 1#16).toNat ≤ 0x2000)) ∧
  (~~~0x2000#16 &&& 0x3FFF#16) + 1#16 = 0x2000#16 ∧ tcByMagnitude 0x2000#16 = -8192

/-- R89: the round-trip law, for every frame and its two codes. -/
def Obligations.CodesRoundTrip : Prop :=
  ∀ (f : FrameWord) (n : ByteCount) (v : BitVec 14) (u : BitVec 12),
    (f.extractLsb' 18 14 = v → (portsOf f n).tcCode.extractLsb' 0 14 = v ∧
      ((portsOf f n).tcCode.extractLsb' 0 14).toInt = (portsOf f n).tcCode.toInt) ∧
    (f.extractLsb' 4 12 = u → (portsOf f n).cjCode.extractLsb' 0 12 = u)

/-- R56: setting or clearing D17 and D3 (any `m` within those two bits) changes FRAME_OUT and no other port. -/
def Obligations.ReservedBitsShowOnlyOnFrameOut : Prop :=
  ∀ (f m : FrameWord) (n : ByteCount), m &&& ~~~0x00020008#32 = 0#32 →
    portsOf (f ^^^ m) n = { portsOf f n with frameOut := f ^^^ m }

/-! ## Classifier and status -/

/-- R100: the truth table of FAULT_KIND with the port's codes, and the priority OC over SCG over SCV over Unknown. -/
def Obligations.FaultKindFollowsThePriority : Prop :=
  ([0b000#3, 0b001#3, 0b010#3, 0b011#3, 0b100#3, 0b101#3, 0b110#3, 0b111#3].map fun b => (faultKind b).code) =
      [0b11#2, 0b00#2, 0b01#2, 0b00#2, 0b10#2, 0b00#2, 0b01#2, 0b00#2] ∧
  ∀ s : State,
    (s.out.faultKind = .openCircuit ↔ s.frame.getLsbD 0 = true) ∧
    (s.out.faultKind = .shortToGround ↔ s.frame.getLsbD 0 = false ∧ s.frame.getLsbD 1 = true) ∧
    (s.out.faultKind = .shortToSupply ↔
      s.frame.getLsbD 0 = false ∧ s.frame.getLsbD 1 = false ∧ s.frame.getLsbD 2 = true) ∧
    (s.out.faultKind = .unknown ↔
      s.frame.getLsbD 0 = false ∧ s.frame.getLsbD 1 = false ∧ s.frame.getLsbD 2 = false)

/-- R102: STATUS with its codes, MALFORMED over FAULT over OK; 0b11 is never driven. -/
def Obligations.StatusMuxPrecedence : Prop :=
  ∀ s : State,
    s.out.status.code = (if s.rxcnt.toNat < 4 then 0b10#2 else if s.frame.getLsbD 16 then 0b01#2 else 0b00#2) ∧
    s.out.status.code ≠ 0b11#2

/-- R103 and R104: TC_VALID is STATUS = OK, and CJ_VALID is RXCNT = 4 whatever the flag is; so both are 0 while
RXCNT < 4. -/
def Obligations.ValidityQualifiers : Prop :=
  ∀ s : State, (s.out.tcValid = true ↔ s.out.status.code = 0b00#2) ∧ (s.out.cjValid = true ↔ s.rxcnt = 4#3) ∧
    (s.rxcnt.toNat < 4 → s.out.tcValid = false ∧ s.out.cjValid = false)

/-- R141: in legal states (RXCNT at most 4) each condition of the catalogue, and a valid reading, is reported with its
codes exactly on its cause, with the count and the frame on the readback ports. -/
def Obligations.CatalogueOfConditions : Prop :=
  ∀ s : State, s.rxcnt.toNat ≤ 4 →
    (s.out.status.code = 0b10#2 ↔ s.rxcnt.toNat < 4) ∧
    ((s.out.status.code = 0b01#2 ∧ s.out.faultKind.code = 0b00#2) ↔
      s.rxcnt = 4#3 ∧ s.frame.getLsbD 16 = true ∧ s.frame.getLsbD 0 = true) ∧
    ((s.out.status.code = 0b01#2 ∧ s.out.faultKind.code = 0b01#2) ↔
      s.rxcnt = 4#3 ∧ s.frame.getLsbD 16 = true ∧ s.frame.extractLsb' 0 2 = 0b10#2) ∧
    ((s.out.status.code = 0b01#2 ∧ s.out.faultKind.code = 0b10#2) ↔
      s.rxcnt = 4#3 ∧ s.frame.getLsbD 16 = true ∧ s.frame.extractLsb' 0 3 = 0b100#3) ∧
    ((s.out.status.code = 0b01#2 ∧ s.out.faultKind.code = 0b11#2) ↔
      s.rxcnt = 4#3 ∧ s.frame.getLsbD 16 = true ∧ s.frame.extractLsb' 0 3 = 0b000#3) ∧
    (s.out.status.code = 0b00#2 ↔ s.rxcnt = 4#3 ∧ s.frame.getLsbD 16 = false) ∧
    s.out.rxcntOut = s.rxcnt ∧ s.out.frameOut = s.frame

/-- R110: a complete frame with D16 = 0 is of class FRAME.OK and a valid reading, whatever D2..D0 are, and FAULT_KIND
shows the mux over them; the rule's example 0x01901905. -/
def Obligations.FaultBitsWithoutTheFlagAreAReading : Prop :=
  (∀ s : State, s.rxcnt = 4#3 → s.frame.getLsbD 16 = false →
    decode (.frame s.frame) = .frameOk s.frame ∧ s.out.status.code = 0b00#2 ∧ s.out.tcValid = true ∧
      s.out.faultKind = faultKind (s.frame.extractLsb' 0 3)) ∧
  (portsOf 0x01901905#32 4#3).status.code = 0b00#2 ∧ (portsOf 0x01901905#32 4#3).tcCode.toInt = 100 ∧
    (portsOf 0x01901905#32 4#3).cjCode.toInt = 400 ∧ (portsOf 0x01901905#32 4#3).faultKind.code = 0b00#2

/-- After R105: a frame of class FRAME.OK, complete, runs to a next state in which the host has sampled STATUS OK,
both valid bits, the two codes and the word; FAULT_KIND is the mux's (R110). No register changes and nothing else
does. That a class is an exec step whose effect is the host's sample is the model's choice (log entry 4),
and so is that it takes the word from the instruction, also where the state's FRAME is another (log entry 13). -/
def Obligations.FrameOkIsAReading : Prop :=
  ∀ (f : FrameWord) (s : State), f &&& 0x00010000 = 0x00000000 → s.rxcnt = 4#3 →
    exec (.frameOk f) s = .next
      { s with
        sampled := some
          { tcCode := (f.extractLsb' 18 14).signExtend 16, faultFlag := false,
            cjCode := (f.extractLsb' 4 12).signExtend 16, faultBits := f.extractLsb' 0 3,
            faultKind := faultKind (f.extractLsb' 0 3), status := .ok, tcValid := true, cjValid := true,
            frameOut := f, rxcntOut := 4#3 } }

/-- After R106: a complete frame of class FRAME.OC: FAULT, OpenCircuit, TC_VALID 0, CJ_VALID 1; the registers and all else as they were.
That a class is an exec step whose effect is the host's sample is the model's choice (log entry 4),
and so is that it takes the word from the instruction, also where the state's FRAME is another (log entry 13). -/
def Obligations.FrameOcIsOpenCircuit : Prop :=
  ∀ (f : FrameWord) (s : State), f &&& 0x00010001 = 0x00010001 → s.rxcnt = 4#3 →
    exec (.frameOc f) s = .next
      { s with
        sampled := some
          { tcCode := (f.extractLsb' 18 14).signExtend 16, faultFlag := true,
            cjCode := (f.extractLsb' 4 12).signExtend 16, faultBits := f.extractLsb' 0 3,
            faultKind := .openCircuit, status := .fault, tcValid := false, cjValid := true, frameOut := f,
            rxcntOut := 4#3 } }

/-- After R107: a complete frame of class FRAME.SCG: FAULT, ShortToGround, TC_VALID 0, CJ_VALID 1; the registers and all else as they were.
That a class is an exec step whose effect is the host's sample is the model's choice (log entry 4),
and so is that it takes the word from the instruction, also where the state's FRAME is another (log entry 13). -/
def Obligations.FrameScgIsShortToGround : Prop :=
  ∀ (f : FrameWord) (s : State), f &&& 0x00010003 = 0x00010002 → s.rxcnt = 4#3 →
    exec (.frameScg f) s = .next
      { s with
        sampled := some
          { tcCode := (f.extractLsb' 18 14).signExtend 16, faultFlag := true,
            cjCode := (f.extractLsb' 4 12).signExtend 16, faultBits := f.extractLsb' 0 3,
            faultKind := .shortToGround, status := .fault, tcValid := false, cjValid := true, frameOut := f,
            rxcntOut := 4#3 } }

/-- After R108: a complete frame of class FRAME.SCV: FAULT, ShortToSupply, TC_VALID 0, CJ_VALID 1; the registers and all else as they were.
That a class is an exec step whose effect is the host's sample is the model's choice (log entry 4),
and so is that it takes the word from the instruction, also where the state's FRAME is another (log entry 13). -/
def Obligations.FrameScvIsShortToSupply : Prop :=
  ∀ (f : FrameWord) (s : State), f &&& 0x00010007 = 0x00010004 → s.rxcnt = 4#3 →
    exec (.frameScv f) s = .next
      { s with
        sampled := some
          { tcCode := (f.extractLsb' 18 14).signExtend 16, faultFlag := true,
            cjCode := (f.extractLsb' 4 12).signExtend 16, faultBits := 0b100#3,
            faultKind := .shortToSupply, status := .fault, tcValid := false, cjValid := true, frameOut := f,
            rxcntOut := 4#3 } }

/-- After R109: a complete frame of class FRAME.UNK: FAULT, Unknown, TC_VALID 0, CJ_VALID 1; the registers and all else as they were.
That a class is an exec step whose effect is the host's sample is the model's choice (log entry 4),
and so is that it takes the word from the instruction, also where the state's FRAME is another (log entry 13). -/
def Obligations.FrameUnkIsUnknown : Prop :=
  ∀ (f : FrameWord) (s : State), f &&& 0x00010007 = 0x00010000 → s.rxcnt = 4#3 →
    exec (.frameUnk f) s = .next
      { s with
        sampled := some
          { tcCode := (f.extractLsb' 18 14).signExtend 16, faultFlag := true,
            cjCode := (f.extractLsb' 4 12).signExtend 16, faultBits := 0b000#3,
            faultKind := .unknown, status := .fault, tcValid := false, cjValid := true, frameOut := f,
            rxcntOut := 4#3 } }

/-- R58's closing sentence: while RXCNT < 4 no class applies; a frame class run there still answers a next state, the
sampled STATUS is MALFORMED with both valid bits 0, and no register changes (log entry 13). -/
def Obligations.NoClassAppliesToAShortFrame : Prop :=
  ∀ (f : FrameWord) (s : State), s.rxcnt.toNat < 4 →
    ∀ i ∈ [Instr.frameOk f, .frameOc f, .frameScg f, .frameScv f, .frameUnk f],
      ∃ t p, exec i s = .next t ∧ t = { s with sampled := some p } ∧ p.status = .malformed ∧ p.tcValid = false ∧
        p.cjValid = false ∧ p.frameOut = f ∧ p.rxcntOut = s.rxcnt

/-- R25 and R47: READ samples out(s), whichever class the frame is of and however short it is, and changes no
register; a second READ samples the same. -/
def Obligations.ReadSamplesThePortsOnly : Prop :=
  ∀ s : State,
    runInputs [.read] s = .next { s with sampled := some s.out } ∧
    runInputs [.read, .read] s = .next { s with sampled := some s.out }

/-! ## The host -/

/-- R120 and R122: the exact temperatures, their ranges and their resolution, over every frame. -/
def Obligations.TemperaturesAreScaledCodes : Prop :=
  ∀ (f : FrameWord) (n : ByteCount),
    let tc := tcCelsius (portsOf f n).tcCode
    let cj := cjCelsius (portsOf f n).cjCode
    tc * 4 = ((portsOf f n).tcCode.toInt : Rat) ∧ -2048 ≤ tc ∧ tc ≤ 204775 / 100 ∧
    cj * 16 = ((portsOf f n).cjCode.toInt : Rat) ∧ -128 ≤ cj ∧ cj ≤ 1279375 / 10000

/-- R124 to R127: the unit conversions by unit code, Rankine in both forms, Celsius for every unrecognised code. -/
def Obligations.UnitConversions : Prop :=
  ∀ c : Rat,
    convert (.ofCode 1) c = c * 9 / 5 + 32 ∧ convert (.ofCode 2) c = c + 27315 / 100 ∧
    convert (.ofCode 3) c = (c + 27315 / 100) * 9 / 5 ∧ convert (.ofCode 3) c = convert (.ofCode 1) c + 45967 / 100 ∧
    convert (.ofCode 0) c = c ∧ ∀ k, 3 < k → convert (.ofCode k) c = c

/-- R128 end to end against the source's own byte algorithm (R54, R82): reading four bytes from any state answers the
fault kind by the priority of D2..D0 when bit 0 of byte1 is set, and otherwise the magnitude-form integer of
`(byte0 << 6) | (byte1 >> 2)` over 4, converted; the block is left with the frame. Fewer than four bytes give
Err(MalformedFrame). That the collaborator is the list of bytes it delivers is log entry 16's choice, and that the
host's READ stores the sample log entry 3's. -/
def Obligations.ReadTemperatureIsTheSourceAlgorithm : Prop :=
  ∀ (unitCode : Nat) (s : State),
    (∀ b0 b1 b2 b3 : Byte, ∃ t, readTemperature unitCode [b0, b1, b2, b3] s = some
        (if b1.getLsbD 0 then
          .err (.sensor (if b3.getLsbD 0 then .openCircuit else if b3.getLsbD 1 then .shortToGround
            else if b3.getLsbD 2 then .shortToSupply else .unknown))
        else .ok (convert (.ofCode unitCode) ((tcByMagnitude (tcFromBytes b0 b1) : Rat) / 4)), t) ∧
      t.frame = b0 ++ b1 ++ b2 ++ b3 ∧ t.rxcnt = 4#3 ∧ t.inputs = s.inputs) ∧
    (∀ bs : List Byte, bs.length < 4 → ∃ t, readTemperature unitCode bs s = some (.err .malformedFrame, t) ∧
      t.rxcnt.toNat = bs.length ∧ t.inputs = s.inputs)

/-- R129 against the source's byte forms (R54, R85): the cold-junction read of four bytes answers the magnitude-form
integer of `(byte2 << 4) | (byte3 >> 4)` over 16 in Celsius, whatever the fault flag and the fault bits are; fewer than
four give Err(MalformedFrame) (90_conflicts.md C3). Each read acquires its own frame, so the state before does not
matter. That the collaborator is the list of bytes it delivers is log entry 16's choice. -/
def Obligations.ColdJunctionReadIgnoresTheFlag : Prop :=
  ∀ s : State,
    (∀ b0 b1 b2 b3 : Byte, ∃ t, readColdJunctionTemperature [b0, b1, b2, b3] s =
        some (.ok ((cjByMagnitude (cjFromBytes b2 b3) : Rat) / 16), t) ∧
      t.frame = b0 ++ b1 ++ b2 ++ b3 ∧ t.rxcnt = 4#3 ∧ t.inputs = s.inputs) ∧
    (∀ bs : List Byte, bs.length < 4 →
      ∃ t, readColdJunctionTemperature bs s = some (.err .malformedFrame, t) ∧ t.inputs = s.inputs)

/-- 93_implementation_defined.md I11 with R72: a transport that delivers more than four bytes gives what its first
four give, result and state, from both reads. -/
def Obligations.ExtraTransportBytesAreDropped : Prop :=
  ∀ (unitCode : Nat) (bs : List Byte) (s : State), 4 ≤ bs.length →
    readTemperature unitCode bs s = readTemperature unitCode (bs.take 4) s ∧
    readColdJunctionTemperature bs s = readColdJunctionTemperature (bs.take 4) s

/-- R130: each wrapper is readTemperature at its unit; so where readTemperature(Celsius) answers a number the wrappers
answer that number converted, and where it answers an error they answer that error, with the same state after. -/
def Obligations.WrappersFixTheUnit : Prop :=
  ∀ (bs : List Byte) (s t : State),
    (readTempF bs s = readTemperature 1 bs s ∧ readTempK bs s = readTemperature 2 bs s ∧
      readTempR bs s = readTemperature 3 bs s) ∧
    (∀ c, readTemperature 0 bs s = some (.ok c, t) → readTempF bs s = some (.ok (c * 9 / 5 + 32), t) ∧
      readTempK bs s = some (.ok (c + 27315 / 100), t) ∧
      readTempR bs s = some (.ok ((c + 27315 / 100) * 9 / 5), t)) ∧
    (∀ e, readTemperature 0 bs s = some (.err e, t) → readTempF bs s = some (.err e, t) ∧
      readTempK bs s = some (.err e, t) ∧ readTempR bs s = some (.err e, t))

/-- I1, I2 and I4 of 93_implementation_defined.md: the host's results depend on no port that STATUS does not qualify.
Ports that agree on STATUS, on TC_CODE where it is OK, on FAULT_KIND where it is FAULT and on CJ_CODE where it is not
MALFORMED give the same results, in exact and in floating-point form. -/
def Obligations.HostIgnoresUnqualifiedPorts : Prop :=
  ∀ (unitCode : Nat) (p q : Ports), p.status = q.status → (p.status = .ok → p.tcCode = q.tcCode) →
    (p.status = .fault → p.faultKind = q.faultKind) → (p.status ≠ .malformed → p.cjCode = q.cjCode) →
    temperatureResult unitCode p = temperatureResult unitCode q ∧ coldJunctionResult p = coldJunctionResult q ∧
    temperatureFloat unitCode p = temperatureFloat unitCode q ∧ coldJunctionFloat p = coldJunctionFloat q

/-- After R121: while TC_VALID = 1 the thermocouple value is a binary fraction with 2 fractional bits and a significand
of at most 14 bits, so a binary format with a significand of `w` ≥ 14 bits holds readTemperature(Celsius) without
rounding; while TC_VALID = 0 there is no value, exact or in any format, for any unit. What it means that a format holds
a value is the model's (log entry 11). -/
def Obligations.BinaryFormatsHoldTheReading : Prop :=
  ∀ (f : FrameWord) (n : ByteCount),
    let p := portsOf f n
    (p.tcValid = true → (∃ k : Int, tcCelsius p.tcCode = (k : Rat) / 2 ^ 2) ∧
      (∃ m e : Int, m.natAbs < 2 ^ 14 ∧ tcCelsius p.tcCode = (m : Rat) * 2 ^ e) ∧
      ∀ w, 14 ≤ w → temperatureFloatIn (some w) 0 p = .ok (tcCelsius p.tcCode)) ∧
    (p.tcValid = false → ∃ e, ∀ unitCode significand, temperatureResult unitCode p = .err e ∧
      temperatureFloatIn significand unitCode p = .err e)

/-- R127 in exact form and in every floating-point format, the host's own among them: an unrecognised unit code is
never rejected, it gives what Celsius (code 0) gives, which is the Celsius value unchanged. The float forms are
log entry 11's. -/
def Obligations.UnrecognisedUnitsFallBackToCelsius : Prop :=
  ∀ k : Nat, 3 < k →
    (∀ c : Rat, convert (.ofCode k) c = c ∧ convert (.ofCode 0) c = c ∧
      ∀ significand, convertIn significand (.ofCode k) c = heldIn significand c ∧
        convertIn significand (.ofCode 0) c = heldIn significand c) ∧
    (∀ p : Ports, temperatureResult k p = temperatureResult 0 p ∧ temperatureFloat k p = temperatureFloat 0 p ∧
      ∀ significand, temperatureFloatIn significand k p = temperatureFloatIn significand 0 p) ∧
    (∀ bs s, readTemperature k bs s = readTemperature 0 bs s)
end

