-- ==== Sys2Proof/Laws/Decode.lean ====
section
/-! SUPPORT. What the decoders and the encoder do, word by word and byte by byte. -/

namespace Sys2Proof

/-! ## Command words -/

/-- A bit of a command word is a bit of DIN below bit 32 and a bit of CMD above. -/
theorem getLsbD_commandOf (cmd : BitVec 2) (din : BitVec 32) (i : Nat) :
    (commandOf cmd din).getLsbD i = if i < 32 then din.getLsbD i else cmd.getLsbD (i - 32) :=
  BitVec.getLsbD_append

/-- DIN is read back from the word it was written to. -/
@[simp] theorem commandDin_commandOf (cmd : BitVec 2) (din : BitVec 32) : commandDin (commandOf cmd din) = din := by
  apply BitVec.eq_of_getLsbD_eq
  intro i hi
  simp [commandDin, getLsbD_commandOf, hi]

theorem decodeCommand_cmd00 (din : BitVec 32) : decodeCommand (commandOf 0b00#2 din) = .nop := by
  rw [decodeCommand, getLsbD_commandOf, getLsbD_commandOf, commandDin_commandOf]; rfl

theorem decodeCommand_cmd01 (din : BitVec 32) : decodeCommand (commandOf 0b01#2 din) = .start := by
  rw [decodeCommand, getLsbD_commandOf, getLsbD_commandOf, commandDin_commandOf]; rfl

theorem decodeCommand_cmd10 (din : BitVec 32) :
    decodeCommand (commandOf 0b10#2 din) = .push (din.extractLsb' 0 8) := by
  rw [decodeCommand, getLsbD_commandOf, getLsbD_commandOf, commandDin_commandOf]; rfl

theorem decodeCommand_cmd11 (din : BitVec 32) : decodeCommand (commandOf 0b11#2 din) = .load din := by
  rw [decodeCommand, getLsbD_commandOf, getLsbD_commandOf, commandDin_commandOf]; rfl

@[simp] theorem decodeCommand_nopWord : decodeCommand nopWord = .nop := decodeCommand_cmd00 _
@[simp] theorem decodeCommand_startWord : decodeCommand startWord = .start := decodeCommand_cmd01 _
@[simp] theorem decodeCommand_pushWord (b : Byte) : decodeCommand (pushWord b) = .push b := by
  rw [pushWord, decodeCommand_cmd10]
  congr 1
  apply BitVec.eq_of_getLsbD_eq
  intro i hi
  have h : (0#24 ++ b : BitVec (24 + 8)).getLsbD i = b.getLsbD i := by
    rw [BitVec.getLsbD_append, if_pos hi]
  simpa [BitVec.getLsbD_extractLsb', hi] using h
@[simp] theorem decodeCommand_loadWord (w : FrameWord) : decodeCommand (loadWord w) = .load w := decodeCommand_cmd11 _

/-! ## Frame words -/

/-- A frame word's class holds that word. -/
theorem encode_decodeFrame (f : FrameWord) : encode (decodeFrame f) = .frame f := by
  unfold decodeFrame
  split <;> rfl

/-- The row D16 = 0. -/
theorem matchesRow_ok (f : FrameWord) : matchesRow 0x00010000 0x00000000 f = !f.getLsbD 16 := by
  rw [matchesRow, Bool.eq_iff_iff, beq_iff_eq, Bool.not_eq_true']
  constructor
  · intro h
    simpa using congrArg (fun x : FrameWord => x.getLsbD 16) h
  · intro h
    apply BitVec.eq_of_getLsbD_eq
    intro i hi
    interval_cases i <;> first | (simp; done) | simpa using h

/-- The row D16 = 1, D0 = 1. -/
theorem matchesRow_oc (f : FrameWord) :
    matchesRow 0x00010001 0x00010001 f = (f.getLsbD 16 && f.getLsbD 0) := by
  rw [matchesRow, Bool.eq_iff_iff, beq_iff_eq, Bool.and_eq_true]
  constructor
  · intro h
    exact ⟨by simpa using congrArg (fun x : FrameWord => x.getLsbD 16) h,
      by simpa using congrArg (fun x : FrameWord => x.getLsbD 0) h⟩
  · rintro ⟨h16, h0⟩
    apply BitVec.eq_of_getLsbD_eq
    intro i hi
    interval_cases i <;> first | (simp; done) | simpa using h16 | simpa using h0

/-- The row D16 = 1, D1 D0 = 10. -/
theorem matchesRow_scg (f : FrameWord) :
    matchesRow 0x00010003 0x00010002 f = (f.getLsbD 16 && !f.getLsbD 0 && f.getLsbD 1) := by
  rw [matchesRow, Bool.eq_iff_iff, beq_iff_eq, Bool.and_eq_true, Bool.and_eq_true, Bool.not_eq_true']
  constructor
  · intro h
    exact ⟨⟨by simpa using congrArg (fun x : FrameWord => x.getLsbD 16) h,
      by simpa using congrArg (fun x : FrameWord => x.getLsbD 0) h⟩,
      by simpa using congrArg (fun x : FrameWord => x.getLsbD 1) h⟩
  · rintro ⟨⟨h16, h0⟩, h1⟩
    apply BitVec.eq_of_getLsbD_eq
    intro i hi
    interval_cases i <;> first | (simp; done) | simpa using h16 | simpa using h0 | simpa using h1

/-- The two rows D16 = 1, D1 D0 = 00: by D2. -/
theorem matchesRow_scv (f : FrameWord) :
    matchesRow 0x00010007 0x00010004 f = (f.getLsbD 16 && !f.getLsbD 0 && !f.getLsbD 1 && f.getLsbD 2) := by
  rw [matchesRow, Bool.eq_iff_iff, beq_iff_eq]
  simp only [Bool.and_eq_true, Bool.not_eq_true']
  constructor
  · intro h
    exact ⟨⟨⟨by simpa using congrArg (fun x : FrameWord => x.getLsbD 16) h,
      by simpa using congrArg (fun x : FrameWord => x.getLsbD 0) h⟩,
      by simpa using congrArg (fun x : FrameWord => x.getLsbD 1) h⟩,
      by simpa using congrArg (fun x : FrameWord => x.getLsbD 2) h⟩
  · rintro ⟨⟨⟨h16, h0⟩, h1⟩, h2⟩
    apply BitVec.eq_of_getLsbD_eq
    intro i hi
    interval_cases i <;>
      first | (simp; done) | simpa using h16 | simpa using h0 | simpa using h1 | simpa using h2

theorem matchesRow_unk (f : FrameWord) :
    matchesRow 0x00010007 0x00010000 f = (f.getLsbD 16 && !f.getLsbD 0 && !f.getLsbD 1 && !f.getLsbD 2) := by
  rw [matchesRow, Bool.eq_iff_iff, beq_iff_eq]
  simp only [Bool.and_eq_true, Bool.not_eq_true']
  constructor
  · intro h
    exact ⟨⟨⟨by simpa using congrArg (fun x : FrameWord => x.getLsbD 16) h,
      by simpa using congrArg (fun x : FrameWord => x.getLsbD 0) h⟩,
      by simpa using congrArg (fun x : FrameWord => x.getLsbD 1) h⟩,
      by simpa using congrArg (fun x : FrameWord => x.getLsbD 2) h⟩
  · rintro ⟨⟨⟨h16, h0⟩, h1⟩, h2⟩
    apply BitVec.eq_of_getLsbD_eq
    intro i hi
    interval_cases i <;>
      first | (simp; done) | simpa using h16 | simpa using h0 | simpa using h1 | simpa using h2

/-- A command word decodes to a well-formed instruction. -/
theorem decodeCommand_wf (w : CommandWord) : (decodeCommand w).wf = true := by
  unfold decodeCommand
  split <;> rfl

/-! ## Bytes -/

/-- A bit of a join is a bit of the byte it lies in. -/
theorem getLsbD_joinBytes (b0 b1 b2 b3 : Byte) (i : Nat) :
    (joinBytes b0 b1 b2 b3).getLsbD i =
      if i < 8 then b3.getLsbD i else if i - 8 < 8 then b2.getLsbD (i - 8)
      else if i - 8 - 8 < 8 then b1.getLsbD (i - 8 - 8) else b0.getLsbD (i - 8 - 8 - 8) := by
  refine BitVec.getLsbD_append.trans ?_
  split
  · rfl
  · refine BitVec.getLsbD_append.trans ?_
    split
    · rfl
    · exact BitVec.getLsbD_append

/-- A bit of a frame's byte is a bit of the frame. -/
theorem getLsbD_frameByte (f : FrameWord) (k : Nat) {i : Nat} (hi : i < 8) :
    (frameByte f k).getLsbD i = f.getLsbD (24 - 8 * k + i) := by
  simp [frameByte, hi]

/-- A frame word is the join of its bytes. -/
theorem joinBytes_frameByte (f : FrameWord) :
    joinBytes (frameByte f 0) (frameByte f 1) (frameByte f 2) (frameByte f 3) = f := by
  apply BitVec.eq_of_getLsbD_eq
  intro i hi
  rw [getLsbD_joinBytes]
  split
  · rw [getLsbD_frameByte _ _ ‹_›]; congr 1; omega
  · split
    · rw [getLsbD_frameByte _ _ ‹_›]; congr 1; omega
    · split
      · rw [getLsbD_frameByte _ _ ‹_›]; congr 1; omega
      · rw [getLsbD_frameByte _ _ (by omega)]; congr 1; omega

/-- The bytes of a join are the bytes joined. -/
theorem frameByte_joinBytes (b0 b1 b2 b3 : Byte) :
    frameByte (joinBytes b0 b1 b2 b3) 0 = b0 ∧ frameByte (joinBytes b0 b1 b2 b3) 1 = b1 ∧
    frameByte (joinBytes b0 b1 b2 b3) 2 = b2 ∧ frameByte (joinBytes b0 b1 b2 b3) 3 = b3 := by
  refine ⟨?_, ?_, ?_, ?_⟩ <;>
  · apply BitVec.eq_of_getLsbD_eq
    intro i hi
    rw [getLsbD_frameByte _ _ hi, getLsbD_joinBytes]
    repeat' split
    all_goals first | omega | (congr 1; omega)

/-- A frame's four bytes are read as that frame. -/
theorem ofBytes_frame (f : FrameWord) : Code.ofBytes (Code.bytes (.frame f)) = .ok (.frame f) := by
  simp [Code.bytes, Code.ofBytes, joinBytes_frameByte]

/-- Every command word is its CMD and its DIN. -/
theorem commandOf_fields (w : CommandWord) : commandOf (w.extractLsb' 32 2) (commandDin w) = w := by
  apply BitVec.eq_of_getLsbD_eq
  intro i hi
  rw [getLsbD_commandOf]
  split
  · next h => simp [commandDin, h]
  · next h =>
    rw [BitVec.getLsbD_extractLsb', show 32 + (i - 32) = i by omega]
    simp [show i - 32 < 2 by omega]

/-- A command word's five bytes are read as that word. -/
theorem ofBytes_command (w : CommandWord) : Code.ofBytes (Code.bytes (.command w)) = .ok (.command w) := by
  have top : ((w.extractLsb' 32 2).setWidth 8 : Byte).extractLsb' 2 6 = 0 := by
    apply BitVec.eq_of_getLsbD_eq
    intro i hi
    simp [BitVec.getLsbD_extractLsb', BitVec.getLsbD_setWidth]
  have cmd : ((w.extractLsb' 32 2).setWidth 8 : Byte).extractLsb' 0 2 = w.extractLsb' 32 2 := by
    apply BitVec.eq_of_getLsbD_eq
    intro i hi
    simp [hi, show i < 8 by omega]
  simp only [Code.bytes, Code.ofBytes, if_pos top, cmd, joinBytes_frameByte, commandOf_fields]

/-- decodeBytes of a command word's bytes decodes the word. -/
theorem decodeBytes_command (w : CommandWord) : decodeBytes (Code.bytes (.command w)) = .ok (decodeCommand w) := by
  rw [decodeBytes, ofBytes_command]; rfl

/-- decodeBytes of a frame's bytes decodes the frame. -/
theorem decodeBytes_frame (f : FrameWord) : decodeBytes (Code.bytes (.frame f)) = .ok (decodeFrame f) := by
  rw [decodeBytes, ofBytes_frame]; rfl

end Sys2Proof
end

