-- ==== Sys2Proof/Laws/State.lean ====
section
/-! SUPPORT. One lemma for each field under each update of the state. -/

namespace Sys2Proof.Machine

section
variable (s : State) (f : FrameWord) (n : ByteCount) (b : Byte) (p : Ports) (xs ys : List HostInput)
  (k : FaultKind) (st : Status)

@[simp] theorem State.capture_frame : (s.capture f n).frame = f := rfl
@[simp] theorem State.capture_rxcnt : (s.capture f n).rxcnt = n := rfl
@[simp] theorem State.capture_sampled : (s.capture f n).sampled = s.sampled := rfl
@[simp] theorem State.capture_inputs : (s.capture f n).inputs = s.inputs := rfl

@[simp] theorem State.record_frame : (s.record p).frame = s.frame := rfl
@[simp] theorem State.record_rxcnt : (s.record p).rxcnt = s.rxcnt := rfl
@[simp] theorem State.record_sampled : (s.record p).sampled = some p := rfl
@[simp] theorem State.record_inputs : (s.record p).inputs = s.inputs := rfl

@[simp] theorem State.withInputs_frame : (s.withInputs xs).frame = s.frame := rfl
@[simp] theorem State.withInputs_rxcnt : (s.withInputs xs).rxcnt = s.rxcnt := rfl
@[simp] theorem State.withInputs_sampled : (s.withInputs xs).sampled = s.sampled := rfl
@[simp] theorem State.withInputs_inputs : (s.withInputs xs).inputs = xs := rfl
@[simp] theorem State.withInputs_self : s.withInputs s.inputs = s := rfl
@[simp] theorem State.withInputs_withInputs : (s.withInputs xs).withInputs ys = s.withInputs ys := rfl

@[simp] theorem State.issue_frame : (s.issue xs).frame = s.frame := rfl
@[simp] theorem State.issue_rxcnt : (s.issue xs).rxcnt = s.rxcnt := rfl
@[simp] theorem State.issue_sampled : (s.issue xs).sampled = s.sampled := rfl
@[simp] theorem State.issue_inputs : (s.issue xs).inputs = xs ++ s.inputs := rfl
@[simp] theorem State.issue_nil : s.issue [] = s := rfl
theorem State.issue_append : s.issue (xs ++ ys) = (s.issue ys).issue xs := by
  simp [State.issue, State.withInputs, List.append_assoc]

@[simp] theorem State.resetBlock_frame : s.resetBlock.frame = 0#32 := rfl
@[simp] theorem State.resetBlock_rxcnt : s.resetBlock.rxcnt = 0#3 := rfl
@[simp] theorem State.resetBlock_sampled : s.resetBlock.sampled = s.sampled := rfl
@[simp] theorem State.resetBlock_inputs : s.resetBlock.inputs = s.inputs := rfl

@[simp] theorem State.recordClass_frame : (s.recordClass f k st).frame = s.frame := rfl
@[simp] theorem State.recordClass_rxcnt : (s.recordClass f k st).rxcnt = s.rxcnt := rfl
@[simp] theorem State.recordClass_inputs : (s.recordClass f k st).inputs = s.inputs := rfl
@[simp] theorem State.recordClass_sampled :
    (s.recordClass f k st).sampled = some (portsWith f s.rxcnt k (gateStatus s.rxcnt st)) := rfl

/-- The byte is taken while the frame is short. -/
theorem State.acceptByte_of_lt (h : s.rxcnt < 4#3) :
    s.acceptByte b = s.capture (shiftByteIn s.frame b) (s.rxcnt + 1#3) := if_pos h

/-- The byte is dropped otherwise. -/
theorem State.acceptByte_of_not_lt (h : ¬s.rxcnt < 4#3) : s.acceptByte b = s := if_neg h

@[simp] theorem State.acceptByte_sampled : (s.acceptByte b).sampled = s.sampled := by
  unfold State.acceptByte; split <;> rfl
@[simp] theorem State.acceptByte_inputs : (s.acceptByte b).inputs = s.inputs := by
  unfold State.acceptByte; split <;> rfl

@[simp] theorem State.out_record : (s.record p).out = s.out := rfl
@[simp] theorem State.out_withInputs : (s.withInputs xs).out = s.out := rfl
@[simp] theorem State.out_capture : (s.capture f n).out = portsOf f n := rfl
end

/-- Two states with the same fields are the same state. -/
theorem State.eq_of_fields {s t : State} (h1 : s.frame = t.frame) (h2 : s.rxcnt = t.rxcnt)
    (h3 : s.sampled = t.sampled) (h4 : s.inputs = t.inputs) : s = t := by
  cases s; cases t; simp_all

end Sys2Proof.Machine
end

