-- ==== Sys2Proof/Laws/Ports.lean ====
section
/-! SUPPORT. The muxes, one lemma for each case, and the ports field by field. -/

namespace Sys2Proof.Machine

/-! ## Cases of the muxes -/

theorem faultKind_bit0 {bits : BitVec 3} (h : bits.getLsbD 0 = true) : faultKind bits = .openCircuit := by
  simp only [faultKind, h, if_true]

theorem faultKind_bit1 {bits : BitVec 3} (h0 : bits.getLsbD 0 = false) (h1 : bits.getLsbD 1 = true) :
    faultKind bits = .shortToGround := by
  simp only [faultKind, h0, h1, if_true, Bool.false_eq_true, if_false]

theorem faultKind_bit2 {bits : BitVec 3} (h0 : bits.getLsbD 0 = false) (h1 : bits.getLsbD 1 = false)
    (h2 : bits.getLsbD 2 = true) : faultKind bits = .shortToSupply := by
  simp only [faultKind, h0, h1, h2, if_true, Bool.false_eq_true, if_false]

theorem faultKind_none {bits : BitVec 3} (h0 : bits.getLsbD 0 = false) (h1 : bits.getLsbD 1 = false)
    (h2 : bits.getLsbD 2 = false) : faultKind bits = .unknown := by
  simp only [faultKind, h0, h1, h2, Bool.false_eq_true, if_false]

theorem gateStatus_short {n : ByteCount} (h : n < 4#3) (st : Status) : gateStatus n st = .malformed := if_pos h

theorem gateStatus_whole {n : ByteCount} (h : ¬n < 4#3) (st : Status) : gateStatus n st = st := if_neg h

@[simp] theorem gateStatus_four (st : Status) : gateStatus 4#3 st = st := rfl

@[simp] theorem statusOf_four (flag : Bool) : statusOf 4#3 flag = if flag then .fault else .ok := rfl

/-- FAULT_BITS are D2..D0. -/
theorem faultBits_getLsbD (f : FrameWord) {i : Nat} (h : i < 3) : (faultBits f).getLsbD i = f.getLsbD i := by
  simp [faultBits, h]

/-! ## The ports field by field -/

section
variable (f : FrameWord) (n : ByteCount) (k : FaultKind) (st : Status)

@[simp] theorem portsWith_tcCode : (portsWith f n k st).tcCode = tcCode f := rfl
@[simp] theorem portsWith_faultFlag : (portsWith f n k st).faultFlag = faultFlag f := rfl
@[simp] theorem portsWith_cjCode : (portsWith f n k st).cjCode = cjCode f := rfl
@[simp] theorem portsWith_faultBits : (portsWith f n k st).faultBits = faultBits f := rfl
@[simp] theorem portsWith_faultKind : (portsWith f n k st).faultKind = k := rfl
@[simp] theorem portsWith_status : (portsWith f n k st).status = st := rfl
@[simp] theorem portsWith_tcValid : (portsWith f n k st).tcValid = tcValidOf st := rfl
@[simp] theorem portsWith_cjValid : (portsWith f n k st).cjValid = cjValidOf n := rfl
@[simp] theorem portsWith_frameOut : (portsWith f n k st).frameOut = f := rfl
@[simp] theorem portsWith_rxcntOut : (portsWith f n k st).rxcntOut = n := rfl

@[simp] theorem portsOf_tcCode : (portsOf f n).tcCode = tcCode f := rfl
@[simp] theorem portsOf_faultFlag : (portsOf f n).faultFlag = faultFlag f := rfl
@[simp] theorem portsOf_cjCode : (portsOf f n).cjCode = cjCode f := rfl
@[simp] theorem portsOf_faultBits : (portsOf f n).faultBits = faultBits f := rfl
@[simp] theorem portsOf_faultKind : (portsOf f n).faultKind = faultKind (faultBits f) := rfl
@[simp] theorem portsOf_status : (portsOf f n).status = statusOf n (faultFlag f) := rfl
@[simp] theorem portsOf_frameOut : (portsOf f n).frameOut = f := rfl
@[simp] theorem portsOf_rxcntOut : (portsOf f n).rxcntOut = n := rfl
end


end Sys2Proof.Machine
end

