-- ==== Sys2Proof/Laws/Step.lean ====
section
/-! SUPPORT. What a step can do, said once, and how runs compose. -/

namespace Sys2Proof.Machine

/-! ## What exec can do -/

/-- A command changes the two registers only, a frame class the host's sample only; neither stops. -/
theorem exec_cases (i : Instr) (s : State) :
    (∃ f n, exec i s = .next (s.capture f n)) ∨ (∃ p, exec i s = .next (s.record p)) := by
  cases i with
  | nop => exact .inl ⟨s.frame, s.rxcnt, rfl⟩
  | start => exact .inl ⟨_, _, rfl⟩
  | push b =>
    by_cases h : s.rxcnt < 4#3
    · exact .inl ⟨_, _, congrArg Host.Outcome.next (s.acceptByte_of_lt b h)⟩
    · exact .inl ⟨s.frame, s.rxcnt, congrArg Host.Outcome.next (s.acceptByte_of_not_lt b h)⟩
  | load w => exact .inl ⟨_, _, rfl⟩
  | frameOk f => exact .inr ⟨_, rfl⟩
  | frameOc f => exact .inr ⟨_, rfl⟩
  | frameScg f => exact .inr ⟨_, rfl⟩
  | frameScv f => exact .inr ⟨_, rfl⟩
  | frameUnk f => exact .inr ⟨_, rfl⟩

/-! ## What fetch takes -/

theorem fetch_idle {s : State} (h : s.inputs = []) : fetch s = .done s := by rw [fetch, h]

theorem fetch_command {s : State} {w rest} (h : s.inputs = .command w :: rest) :
    fetch s = .run (decodeCommand w) (s.withInputs rest) := by rw [fetch, h]; rfl

theorem fetch_reset {s : State} {c rest} (h : s.inputs = .reset c :: rest) :
    fetch s = .done (s.withInputs rest).resetBlock := by rw [fetch, h]

theorem fetch_read_whole {s : State} {rest} (h : s.inputs = .read :: rest) (h4 : s.rxcnt = 4#3) :
    fetch s = .run (decodeFrame s.frame) (s.withInputs rest) := by rw [fetch, h]; simp only [h4, if_true]; rfl

theorem fetch_read_short {s : State} {rest} (h : s.inputs = .read :: rest) (h4 : s.rxcnt ≠ 4#3) :
    fetch s = .done ((s.withInputs rest).record s.out) := by rw [fetch, h]; simp only [h4, if_false]

/-- What a step does once its fetch is known. -/
theorem step_of_run {s t : State} {i : Instr} (h : fetch s = .run i t) : step s = exec i t := by rw [step, h]

theorem step_of_done {s t : State} (h : fetch s = .done t) : step s = .next t := by rw [step, h]

/-! ## Issuing -/

theorem step_issue_command (s : State) (w : CommandWord) (xs : List HostInput) :
    step (s.issue (.command w :: xs)) = exec (decodeCommand w) (s.issue xs) :=
  step_of_run (fetch_command (by simp))

/-- exec reads no pending input: other pending inputs change nothing but themselves. -/
theorem exec_withInputs (i : Instr) {s t : State} (h : exec i s = .next t) (xs : List HostInput) :
    exec i (s.withInputs xs) = .next (t.withInputs xs) := by
  cases i with
  | push b =>
    cases h
    refine congrArg Host.Outcome.next ?_
    by_cases hn : s.rxcnt < 4#3
    · rw [s.acceptByte_of_lt b hn, (s.withInputs xs).acceptByte_of_lt b hn]; rfl
    · rw [s.acceptByte_of_not_lt b hn, (s.withInputs xs).acceptByte_of_not_lt b hn]
  | nop => cases h; rfl
  | start => cases h; rfl
  | load w => cases h; rfl
  | frameOk f => cases h; rfl
  | frameOc f => cases h; rfl
  | frameScg f => cases h; rfl
  | frameScv f => cases h; rfl
  | frameUnk f => cases h; rfl

/-! ## Runs -/

@[simp] theorem runSteps_zero (s : State) : runSteps 0 s = .next s := rfl

theorem runSteps_succ_of_next {s t : State} (h : step s = .next t) (k : Nat) :
    runSteps (k + 1) s = runSteps k t := by rw [runSteps, h]

/-- A run of `j` steps and then `k` more. -/
theorem runSteps_add {s t : State} {j : Nat} (h : runSteps j s = .next t) (k : Nat) :
    runSteps (j + k) s = runSteps k t := by
  induction j generalizing s with
  | zero => cases h; simp
  | succ j ih =>
    rw [Nat.add_right_comm, runSteps]
    rw [runSteps] at h
    split at h
    · exact ih h
    · cases h
    · cases h

/-! ## Issued inputs, one at a time -/

@[simp] theorem runInputs_nil (s : State) : runInputs [] s = .next s := rfl

/-- An issued input whose step goes from `s` to `t` with the rest still to come. -/
theorem runInputs_cons {x : HostInput} {xs : List HostInput} {s t : State}
    (h : step (s.issue (x :: xs)) = .next (t.issue xs)) : runInputs (x :: xs) s = runInputs xs t :=
  runSteps_succ_of_next h xs.length

/-- An issued command word whose instruction takes `s` to `t`. -/
theorem runInputs_command {w : CommandWord} {s t : State} (h : exec (decodeCommand w) s = .next t)
    (ht : t.inputs = s.inputs) (xs : List HostInput) : runInputs (.command w :: xs) s = runInputs xs t := by
  apply runInputs_cons
  rw [step_issue_command, State.issue, exec_withInputs _ h, State.issue, ht]

theorem runInputs_nop (xs : List HostInput) (s : State) :
    runInputs (.command nopWord :: xs) s = runInputs xs s :=
  runInputs_command (t := s) (by rw [decodeCommand_nopWord]; rfl) rfl xs

theorem runInputs_start (xs : List HostInput) (s : State) :
    runInputs (.command startWord :: xs) s = runInputs xs (s.capture 0#32 0#3) :=
  runInputs_command (s := s) (t := s.capture 0#32 0#3) (by rw [decodeCommand_startWord]; rfl) rfl xs

theorem runInputs_push (b : Byte) (xs : List HostInput) (s : State) :
    runInputs (.command (pushWord b) :: xs) s = runInputs xs (s.acceptByte b) :=
  runInputs_command (t := s.acceptByte b) (by rw [decodeCommand_pushWord]; rfl) (s.acceptByte_inputs b) xs

theorem runInputs_load (w : FrameWord) (xs : List HostInput) (s : State) :
    runInputs (.command (loadWord w) :: xs) s = runInputs xs (s.capture w 4#3) :=
  runInputs_command (s := s) (t := s.capture w 4#3) (by rw [decodeCommand_loadWord]; rfl) rfl xs

theorem runInputs_reset (c : Option CommandWord) (xs : List HostInput) (s : State) :
    runInputs (.reset c :: xs) s = runInputs xs s.resetBlock :=
  runInputs_cons (step_of_done (fetch_reset (s.issue_inputs (.reset c :: xs))))

end Sys2Proof.Machine
end

