-- ==== Sys2Proof/Laws/HostRead.lean ====
section
/-! SUPPORT. The host's conversions and results, case by case. -/

namespace Sys2Proof.Machine

@[simp] theorem ofCode_zero : TemperatureUnit.ofCode 0 = .celsius := rfl
@[simp] theorem ofCode_one : TemperatureUnit.ofCode 1 = .fahrenheit := rfl
@[simp] theorem ofCode_two : TemperatureUnit.ofCode 2 = .kelvin := rfl
@[simp] theorem ofCode_three : TemperatureUnit.ofCode 3 = .rankine := rfl
theorem ofCode_unrecognised (k : Nat) : TemperatureUnit.ofCode (k + 4) = .celsius := rfl

section
variable (c : Rat)
@[simp] theorem convert_celsius : convert .celsius c = c := rfl
@[simp] theorem convert_fahrenheit : convert .fahrenheit c = c * 9 / 5 + 32 := rfl
@[simp] theorem convert_kelvin : convert .kelvin c = c + 27315 / 100 := rfl
@[simp] theorem convert_rankine : convert .rankine c = (c + 27315 / 100) * 9 / 5 := rfl
end

section
variable {p : Ports} (u : Nat)
theorem temperatureResult_malformed (h : p.status = .malformed) :
    temperatureResult u p = .err .malformedFrame := by rw [temperatureResult, h]
theorem temperatureResult_fault (h : p.status = .fault) :
    temperatureResult u p = .err (.sensor p.faultKind) := by rw [temperatureResult, h]
theorem temperatureResult_ok (h : p.status = .ok) :
    temperatureResult u p = .ok (convert (.ofCode u) (tcCelsius p.tcCode)) := by rw [temperatureResult, h]
theorem coldJunctionResult_malformed (h : p.status = .malformed) :
    coldJunctionResult p = .err .malformedFrame := by rw [coldJunctionResult, h]
theorem coldJunctionResult_whole (h : p.status ≠ .malformed) :
    coldJunctionResult p = .ok (cjCelsius p.cjCode) := by
  unfold coldJunctionResult
  split <;> simp_all
end

/-! ## The host's format -/

/-- A number has nothing below its `p` leading bits iff it is a number below 2^p times a power of two. -/
theorem lowBits_zero_iff (p n : Nat) : n % 2 ^ (n.log2 + 1 - p) = 0 ↔ ∃ a e : Nat, a < 2 ^ p ∧ n = a * 2 ^ e := by
  constructor
  · intro h
    obtain ⟨a, ha⟩ := Nat.dvd_of_mod_eq_zero h
    refine ⟨a, n.log2 + 1 - p, ?_, by rw [Nat.mul_comm]; exact ha⟩
    have hn : n < 2 ^ (n.log2 + 1) := Nat.lt_log2_self
    by_contra hc
    have h1 : 2 ^ (n.log2 + 1 - p) * 2 ^ p ≤ n :=
      le_trans (Nat.mul_le_mul_left _ (not_lt.mp hc)) (le_of_eq ha.symm)
    rw [← pow_add] at h1
    have := Nat.pow_le_pow_right (n := 2) (by decide) (show n.log2 + 1 ≤ n.log2 + 1 - p + p by omega)
    omega
  · rintro ⟨a, e, ha, hn⟩
    rcases Nat.eq_zero_or_pos n with h0 | h0
    · rw [h0, Nat.zero_mod]
    · have h2 : 2 ^ n.log2 ≤ n := Nat.log2_self_le (by omega)
      have h3 : n < 2 ^ (p + e) := by
        rw [hn, pow_add]; exact Nat.mul_lt_mul_of_pos_right ha (by positivity)
      have h4 : n.log2 < p + e := (Nat.pow_lt_pow_iff_right (by decide : 1 < 2)).1 (lt_of_le_of_lt h2 h3)
      apply Nat.mod_eq_zero_of_dvd
      rw [hn]
      exact Dvd.dvd.mul_left (pow_dvd_pow 2 (by rw [← hn]; omega)) a

/-- The check of `fitsSignificand` says what it should: an integer below 2^p in magnitude times a power of two. -/
theorem fitsSignificand_iff (p : Nat) (q : Rat) :
    fitsSignificand p q = true ↔ ∃ m e : Int, m.natAbs < 2 ^ p ∧ q = m * 2 ^ e := by
  rw [fitsSignificand, decide_eq_true_iff, lowBits_zero_iff]
  constructor
  · rintro ⟨hd, a, e, ha, hn⟩
    refine ⟨q.num.sign * a, e - q.den.log2, ?_, ?_⟩
    · rw [Int.natAbs_mul, Int.natAbs_natCast]
      have hs : q.num.sign.natAbs ≤ 1 := by rcases Int.sign_trichotomy q.num with h | h | h <;> simp [h]
      exact lt_of_le_of_lt (by simpa using Nat.mul_le_mul_right a hs) ha
    · have hnum : (q.num : Rat) = q.num.sign * a * 2 ^ e := by
        have := Int.sign_mul_natAbs q.num
        rw [hn] at this
        exact_mod_cast (this.symm.trans (by push_cast; ring))
      have hden : (q.den : Rat) = 2 ^ q.den.log2 := by exact_mod_cast hd
      calc q = q.num / q.den := (Rat.num_div_den q).symm
        _ = q.num.sign * a * 2 ^ e / 2 ^ q.den.log2 := by rw [hnum]; rw [← hden]
        _ = _ := by
          rw [zpow_sub₀ (by norm_num)]; push_cast; rw [zpow_natCast, zpow_natCast]; ring
  · rintro ⟨m, e, hm, hq⟩
    obtain ⟨t, rfl | rfl⟩ := e.eq_nat_or_neg
    · have hi : q = ((m * 2 ^ t : Int) : Rat) := by rw [hq]; push_cast; rw [zpow_natCast]
      rw [hi, Rat.den_intCast, Rat.num_intCast]
      exact ⟨rfl, m.natAbs, t, hm, by rw [Int.natAbs_mul, Int.natAbs_pow]; rfl⟩
    · have hq' : q = m / ((2 ^ t : Nat) : Int) := by
        rw [hq, zpow_neg, zpow_natCast]; push_cast; rw [div_eq_mul_inv]
      have hd : (q.den : Int) ∣ ((2 ^ t : Nat) : Int) := by
        rw [hq', ← Rat.divInt_eq_div]; exact Rat.den_dvd m _
      obtain ⟨j, hj, hdj⟩ := (Nat.dvd_prime_pow Nat.prime_two).1 (Int.natCast_dvd_natCast.1 hd)
      have hnum : q.num * 2 ^ (t - j) = m := by
        have h1 : (q.num : Rat) / q.den = m / ((2 ^ t : Nat) : Int) := (Rat.num_div_den q).trans hq'
        rw [hdj] at h1
        have h2 : (2 : Rat) ^ t = 2 ^ j * 2 ^ (t - j) := by rw [← pow_add]; congr 1; omega
        have h3 : (q.num : Rat) * 2 ^ (t - j) = m := by
          push_cast at h1
          rw [h2] at h1
          field_simp at h1
          linarith
        exact_mod_cast h3
      refine ⟨by rw [hdj, Nat.log2_two_pow], q.num.natAbs, 0, lt_of_le_of_lt ?_ hm, by simp⟩
      rw [← hnum, Int.natAbs_mul]
      exact Nat.le_mul_of_pos_right _ (Int.natAbs_pos.2 (by positivity))

section
variable (sig : Option Nat) (c : Rat)

/-- A binary format holds a value that fits its significand. -/
theorem heldIn_of_fits {p : Nat} {q : Rat} (h : fitsSignificand p q = true) : heldIn (some p) q = q := if_pos h

@[simp] theorem convertIn_celsius : convertIn sig .celsius c = heldIn sig c := rfl
@[simp] theorem convertIn_fahrenheit : convertIn sig .fahrenheit c = Config.hostConvert .fahrenheit c := rfl
@[simp] theorem convertIn_kelvin : convertIn sig .kelvin c = Config.hostConvert .kelvin c := rfl
@[simp] theorem convertIn_rankine : convertIn sig .rankine c = Config.hostConvert .rankine c := rfl
end

section
variable {p : Ports} (sig : Option Nat) (u : Nat)
theorem temperatureFloatIn_malformed (h : p.status = .malformed) :
    temperatureFloatIn sig u p = .err .malformedFrame := by rw [temperatureFloatIn, h]
theorem temperatureFloatIn_fault (h : p.status = .fault) :
    temperatureFloatIn sig u p = .err (.sensor p.faultKind) := by rw [temperatureFloatIn, h]
theorem temperatureFloatIn_ok (h : p.status = .ok) :
    temperatureFloatIn sig u p = .ok (convertIn sig (.ofCode u) (tcCelsius p.tcCode)) := by
  rw [temperatureFloatIn, h]
end

/-! ## The read operations -/

/-- A read operation whose acquisition ends in `t` with `p` sampled. -/
theorem readWith_of_run {r : Ports → ReadResult} {bytes : List Byte} {s t : State} {p : Ports}
    (h : runInputs (acquireInputs bytes) s = .next t) (hp : t.sampled = some p) :
    readWith r bytes s = some (r p, t) := by
  rw [readWith, h]; simp only [hp, Option.map_some]

end Sys2Proof.Machine
end

