-- ==== Sys2Proof/Laws/Ops.lean ====
section
/-! SUPPORT. What the shared operations compute, bit by bit and as numbers. -/

namespace Sys2Proof

/-- A command word as a number: CMD above DIN. -/
theorem toNat_commandOf (cmd : BitVec 2) (din : BitVec 32) :
    (commandOf cmd din).toNat = cmd.toNat * 2 ^ 32 + din.toNat := by
  refine (BitVec.toNat_append _ _).trans ?_
  rw [Nat.shiftLeft_eq, Nat.mul_comm, ← Nat.two_pow_add_eq_or_of_lt din.isLt]

namespace Machine

/-- R72's shift, as numbers: the top byte is lost, the rest moves up by eight bits. -/
theorem toNat_shiftByteIn (f : FrameWord) (b : Byte) :
    (shiftByteIn f b).toNat = f.toNat % 2 ^ 24 * 2 ^ 8 + b.toNat := by
  refine (BitVec.toNat_append _ _).trans ?_
  rw [BitVec.extractLsb'_toNat, Nat.shiftRight_zero, Nat.shiftLeft_eq, Nat.mul_comm,
    ← Nat.two_pow_add_eq_or_of_lt b.isLt]

/-- R72's shift, bit by bit. -/
theorem getLsbD_shiftByteIn (f : FrameWord) (b : Byte) (i : Nat) :
    (shiftByteIn f b).getLsbD i = if i < 8 then b.getLsbD i else (decide (i - 8 < 24) && f.getLsbD (i - 8)) := by
  refine BitVec.getLsbD_append.trans ?_
  split
  · rfl
  · rw [BitVec.getLsbD_extractLsb', Nat.zero_add]

/-- Counting a byte of a short frame does not wrap. -/
theorem toNat_count_succ {n : ByteCount} (h : n < 4#3) : (n + 1#3).toNat = n.toNat + 1 := by
  have : n.toNat < 4 := h
  simp [BitVec.toNat_add]
  omega

end Machine

end Sys2Proof
end

