-- ==== Sys2Proof/Laws/PerInstr.lean ====
section
/-! SUPPORT. The facts about Instr as written terms, one lemma for each constructor. -/

namespace Sys2Proof.Laws.ByteLength

/-- An instruction's bytes: the five of a command word for the port's commands, the four of a frame for the frame
classes (spec/30_encoding.md R50, R59). -/
def Statement (i : Instr) : Prop :=
  (encodeBytes i).length = match i with
    | .nop | .start | .push _ | .load _ => 5
    | .frameOk _ | .frameOc _ | .frameScg _ | .frameScv _ | .frameUnk _ => 4

theorem nop : Statement .nop := rfl
theorem start : Statement .start := rfl
theorem push (b : Byte) : Statement (.push b) := rfl
theorem load (w : FrameWord) : Statement (.load w) := rfl
theorem frameOk (f : FrameWord) : Statement (.frameOk f) := rfl
theorem frameOc (f : FrameWord) : Statement (.frameOc f) := rfl
theorem frameScg (f : FrameWord) : Statement (.frameScg f) := rfl
theorem frameScv (f : FrameWord) : Statement (.frameScv f) := rfl
theorem frameUnk (f : FrameWord) : Statement (.frameUnk f) := rfl

end Sys2Proof.Laws.ByteLength
end

