-- ==== Sys2Proof/Laws/Safety.lean ====
section
/-! SUPPORT. The captures that keep FRAME and RXCNT legal together. -/

namespace Sys2Proof.Machine

theorem legalCapture_zero : legalCapture 0#32 0#3 := ⟨by decide, by decide⟩

theorem legalCapture_whole (w : FrameWord) : legalCapture w 4#3 := ⟨by decide, w.isLt⟩

/-- One more byte of a short frame (spec/40_frame_capture.md R72). -/
theorem legalCapture_push {f : FrameWord} {n : ByteCount} (b : Byte) (h : legalCapture f n) (hn : n < 4#3) :
    legalCapture (shiftByteIn f b) (n + 1#3) := by
  obtain ⟨_, hf⟩ := h
  have h4 : n.toNat < 4 := hn
  refine ⟨by rw [toNat_count_succ hn]; omega, ?_⟩
  have hb := b.isLt
  have hm : f.toNat % 2 ^ 24 ≤ f.toNat := Nat.mod_le _ _
  have hp : 2 ^ (8 * (n.toNat + 1)) = 2 ^ (8 * n.toNat) * 256 := by rw [Nat.mul_add, Nat.pow_add]
  rw [toNat_count_succ hn, toNat_shiftByteIn]
  omega

/-- The ports a legal state drives are a legal sample. -/
theorem legalSample_out {s : State} (h : legalCapture s.frame s.rxcnt) : legalSample s.out := ⟨rfl, h⟩

end Sys2Proof.Machine
end

