-- ==== Sys2Proof/Tests/Slice0.lean ====
section
/-!
SUPPORT. Tests and witnesses. Expected values come from spec/95_test_vectors.md (sections named at each group), from
the examples of the rules, or from words written out from the encoding tables of spec/30_encoding.md.
-/

namespace Sys2Proof.Tests

open Sys2Proof.Machine

/-- The next state of an outcome, if it has one. -/
def nextOf : Host.Outcome State Fault Refusal → Option State
  | .next t => some t
  | .fault _ => none
  | .refused _ => none

/-- A block with the given registers, whose host has issued and sampled nothing. -/
def block (f : FrameWord) (n : ByteCount) : State := { State.reset with frame := f, rxcnt := n }

/-- A block with the given registers and one pending input. -/
def pending (f : FrameWord) (n : ByteCount) (x : HostInput) : State := { block f n with inputs := [x] }

/-! ## WellFormed: an ill-formed term for each check of R58 -/

theorem test_wf_ok_refuses_flag : (Instr.frameOk 0x00010000#32).wf = false := by decide
theorem test_wf_oc_refuses_bit0_clear : (Instr.frameOc 0x00010002#32).wf = false := by decide
theorem test_wf_oc_refuses_no_flag : (Instr.frameOc 0x00000001#32).wf = false := by decide
theorem test_wf_scg_refuses_bit0_set : (Instr.frameScg 0x00010003#32).wf = false := by decide
theorem test_wf_scv_refuses_bit1_set : (Instr.frameScv 0x00010006#32).wf = false := by decide
theorem test_wf_unk_refuses_bit2_set : (Instr.frameUnk 0x00010004#32).wf = false := by decide

/-- R60's ranges, at their ends. -/
theorem test_asm_ranges :
    (AsmLine.push 255).inRange = true ∧ (AsmLine.push 256).inRange = false ∧
    (AsmLine.load 4294967295).inRange = true ∧ (AsmLine.load 4294967296).inRange = false ∧
    (AsmLine.frame 4294967296).inRange = false ∧ (AsmLine.frameb 256 0 0 0).inRange = false ∧
    (AsmLine.frameb 0 256 0 0).inRange = false ∧ (AsmLine.frameb 0 0 256 0).inRange = false ∧
    (AsmLine.frameb 0 0 0 256).inRange = false := by decide

/-! ## Decode: words written out bit by bit (R51, R58) -/

theorem test_decode_nop : decode (.command 0b0010110011100011110000111110000011#34) = .nop := by decide
theorem test_decode_start : decode (.command 0b0100000000000000000000000000000001#34) = .start := by decide
theorem test_decode_push : decode (.command 0b1010101011110011011110111100111110#34) = .push 0b00111110#8 := by decide
theorem test_decode_load :
    decode (.command 0b1111110000011000011100100100000011#34) = .load 0b11110000011000011100100100000011#32 := by decide
theorem test_decode_frame_ok :
    decode (.frame 0b00111110100000000111111100000111#32) = .frameOk 0b00111110100000000111111100000111#32 := by decide
theorem test_decode_frame_oc :
    decode (.frame 0b11110000011000011100100100000011#32) = .frameOc 0b11110000011000011100100100000011#32 := by decide
theorem test_decode_frame_scg :
    decode (.frame 0b00000001100100010001100100000110#32) = .frameScg 0b00000001100100010001100100000110#32 := by decide
theorem test_decode_frame_scv :
    decode (.frame 0b00000001100100010001100100000100#32) = .frameScv 0b00000001100100010001100100000100#32 := by decide
theorem test_decode_frame_unk :
    decode (.frame 0b00000001100100010001100100001000#32) = .frameUnk 0b00000001100100010001100100001000#32 := by decide

/-- A frame's bytes come most significant first (R42); a command word's in log entry 6's layout. -/
theorem test_decode_bytes :
    decodeBytes [0x3E#8, 0x80#8, 0x7F#8, 0x00#8] = .ok (.frameOk 0x3E807F00#32) ∧
    decodeBytes [0x02#8, 0xAB#8, 0xCD#8, 0xEF#8, 0x12#8] = .ok (.push 0x12#8) := by
  exact ⟨rfl, rfl⟩
theorem test_decode_bytes_refused :
    decodeBytes [0x3E#8, 0x80#8, 0x7F#8] = .error (.shortFrame 3) ∧
    decodeBytes [0x04#8, 0#8, 0#8, 0#8, 0#8] = .error (.bitsAboveCmd 1#6) ∧
    decodeBytes [0#8, 0#8, 0#8, 0#8, 0#8, 0#8] = .error (.tooLong 6) := ⟨rfl, rfl, rfl⟩

/-- R62. -/
theorem test_encode_words :
    encode (.push 0x3E#8) = .command 0x20000003E#34 ∧ encode (.load 0xF061C903#32) = .command 0x3F061C903#34 := by decide

/-! ## The commands (section 2.1) -/

theorem test_nop : nextOf (exec .nop (block 0x3E807F00#32 4#3)) = some (block 0x3E807F00#32 4#3) := by decide
theorem test_start : nextOf (exec .start (block 0x003E807F#32 3#3)) = some (block 0x00000000#32 0#3) := by decide
theorem test_push : nextOf (exec (.push 0x7F#8) (block 0x00003E80#32 2#3)) = some (block 0x003E807F#32 3#3) := by decide
theorem test_push_dropped :
    nextOf (exec (.push 0xFF#8) (block 0x3E807F00#32 4#3)) = some (block 0x3E807F00#32 4#3) := by decide
theorem test_load : nextOf (exec (.load 0xF061C903#32) (block 0x00000191#32 2#3)) = some (block 0xF061C903#32 4#3) := by
  decide
theorem test_load_of_zero_is_a_frame :
    (nextOf (exec (.load 0#32) (block 0xF061C903#32 4#3))).map (fun t => t.out.status) = some .ok := by decide

/-- RESET with LOAD in the same step (section 2.6). -/
theorem test_reset_wins :
    nextOf (step (pending 0x12345678#32 3#3 (.reset (some 0x33E807F00#34)))) = some (block 0#32 0#3) := by decide

/-- The placed table word is what the next step runs: a command and a frame word, right after reset. -/
theorem test_withFetchWord :
    nextOf (step (State.reset.withFetchWord 40 0x2ABCDEF12)) = some (block 0x00000012#32 1#3) ∧
    (nextOf (step (State.reset.withFetchWord 32 0xF061C903))).map (fun t => (t.frame, t.rxcnt, t.inputs)) =
      some (0xF061C903#32, 4#3, []) := by decide

/-! ## The frame classes (section 2.5 and the rules' examples), as the host samples them -/

/-- What the host has sampled of the class result after one step. -/
def seen (o : Host.Outcome State Fault Refusal) : Option (FaultKind × Status × Bool × Bool) :=
  ((nextOf o).bind fun t => t.sampled).map fun p => (p.faultKind, p.status, p.tcValid, p.cjValid)

theorem test_frame_ok :
    seen (exec (.frameOk 0x01901905#32) (block 0x01901905#32 4#3)) = some (.openCircuit, .ok, true, true) := by decide
theorem test_frame_oc :
    seen (exec (.frameOc 0x01911903#32) (block 0x01911903#32 4#3)) = some (.openCircuit, .fault, false, true) := by decide
theorem test_frame_scg :
    seen (exec (.frameScg 0x01911906#32) (block 0x01911906#32 4#3)) = some (.shortToGround, .fault, false, true) := by
  decide
theorem test_frame_scv :
    seen (exec (.frameScv 0x01911904#32) (block 0x01911904#32 4#3)) = some (.shortToSupply, .fault, false, true) := by
  decide
theorem test_frame_unk :
    seen (exec (.frameUnk 0x01911900#32) (block 0x01911900#32 4#3)) = some (.unknown, .fault, false, true) := by decide

/-- P4's middle READ: a short frame whose D16 happens to read 1. -/
theorem test_read_short_frame :
    ((nextOf (step (pending 0x00019119#32 3#3 .read))).bind fun t => t.sampled).map
        (fun p => (p.status, p.tcValid, p.cjValid, p.faultFlag, p.cjCode, p.rxcntOut)) =
      some (.malformed, false, false, true, 0xF911#16, 3#3) := by decide

/-! ## Ports (sections 2.2 to 2.4) -/

theorem test_tc_codes :
    [0x00000000#32, 0x00040000#32, 0x3E800000#32, 0x7FFC0000#32, 0x80000000#32, 0xF0600000#32, 0xFE700000#32,
      0xFFFC0000#32, 0x3E830000#32].map tcCode =
    [0x0000#16, 0x0001#16, 0x0FA0#16, 0x1FFF#16, 0xE000#16, 0xFC18#16, 0xFF9C#16, 0xFFFF#16, 0x0FA0#16] := by decide
theorem test_cj_codes :
    [0x00000000#32, 0x00000010#32, 0x00007F00#32, 0x00007FF0#32, 0x00008000#32, 0x0000C900#32, 0x0000E700#32,
      0x0000FFF0#32].map cjCode =
    [0x0000#16, 0x0001#16, 0x07F0#16, 0x07FF#16, 0xF800#16, 0xFC90#16, 0xFE70#16, 0xFFFF#16] := by decide
theorem test_reserved_bits :
    portsOf 0x01921908#32 4#3 = { portsOf 0x01901900#32 4#3 with frameOut := 0x01921908#32 } := by decide
/-- 90_conflicts.md C1: the scenario's bytes are 1000 and 127 as raw codes. -/
theorem test_corrected_scenario :
    (tcFromBytes 0x0F#8 0xA0#8, cjFromBytes 0x07#8 0xF0#8) = (1000#16, 127#16) ∧
    (tcCode 0x0FA007F0#32, cjCode 0x0FA007F0#32) = (1000#16, 127#16) := by decide

/-! ## The host (section 2.7 and section 1) -/

theorem test_conversions :
    convert (.ofCode 1) 127 = 2606 / 10 ∧ convert (.ofCode 2) (-2048) = -177485 / 100 ∧
    convert (.ofCode 3) (-250) = 4167 / 100 ∧ convert (.ofCode 4) 2047 = 2047 := by
  norm_num [TemperatureUnit.ofCode]
theorem test_scaling : tcCelsius 0xFC18#16 = -250 ∧ cjCelsius 0xFC90#16 = -55 ∧ cjCelsius 0x007F#16 = 79375 / 10000 := by
  have h1 : (0xFC18#16 : CodeWord).toInt = -1000 := by decide
  have h2 : (0xFC90#16 : CodeWord).toInt = -880 := by decide
  have h3 : (0x007F#16 : CodeWord).toInt = 127 := by decide
  rw [tcCelsius, cjCelsius, cjCelsius, h1, h2, h3]
  norm_num

/-- 8191/4 needs 13 significand bits; 1/5, as in 273.15, fits none; the smallest code's −2048 fits one. -/
theorem test_significands :
    fitsSignificand 13 ⟨8191, 4, by decide, by decide⟩ = true ∧ fitsSignificand 12 ⟨8191, 4, by decide, by decide⟩ = false ∧
    fitsSignificand 53 ⟨1, 5, by decide, by decide⟩ = false ∧ fitsSignificand 1 ⟨-2048, 1, by decide, by decide⟩ = true := by
  decide

/-! ## The assembler (R60 to R62) -/

theorem test_assemble_text :
    assembleText ['L', '1', ':', ' ', 'P', 'U', 'S', 'H', ' ', '0', 'x', '3', 'E', ' ', ';', ' ', 'x'] =
      .ok [.command 0x20000003E#34] := rfl
theorem test_assemble_frameb_text :
    assembleText ['F', 'R', 'A', 'M', 'E', 'B', ' ', '1', '5', ',', ' ', '0', 'b', '1', ',', '7', ',', '0', 'x', 'f', '0'] =
      .ok (frameInputs 0x0F#8 0x01#8 0x07#8 0xF0#8) := rfl
theorem test_assemble_out_of_range :
    assembleText ['P', 'U', 'S', 'H', ' ', '2', '5', '6'] = .error .outOfRange := rfl

/-! ## Witnesses: for each statement with hypotheses, a state and operands that meet them all -/

/-- StepRunsTheNextInput: its five clauses. -/
theorem witness_next_input :
    (pending 0#32 0#3 (.command 0#34)).inputs = .command 0#34 :: [] ∧
    (pending 0#32 0#3 (.reset none)).inputs = .reset none :: [] ∧
    ((pending 0#32 4#3 .read).inputs = .read :: [] ∧ (pending 0#32 4#3 .read).rxcnt = 4#3) ∧
    ((pending 0#32 3#3 .read).inputs = .read :: [] ∧ (pending 0#32 3#3 .read).rxcnt ≠ 4#3) ∧
    (block 0#32 0#3).inputs = [] := by decide
/-- StepRunsTheDecodedInstruction: both clauses. -/
theorem witness_decoded_instruction :
    ((Instr.push 0x12#8).wf = true ∧ decodeBytes (Code.bytes (.command 0x2ABCDEF12#34)) = .ok (.push 0x12#8)) ∧
    ((Instr.frameOc 0xF061C903#32).wf = true ∧
      decodeBytes (Code.bytes (.frame (pending 0xF061C903#32 4#3 .read).frame)) = .ok (.frameOc 0xF061C903#32)) :=
  ⟨⟨rfl, rfl⟩, ⟨rfl, rfl⟩⟩
/-- ResetWinsAndClearsTheBlock. -/
theorem witness_reset :
    (pending 0x12345678#32 3#3 (.reset (some 0x33E807F00#34))).inputs = .reset (some 0x33E807F00#34) :: [] := rfl
/-- OnlyCaptureAndResetWriteTheRegisters: PUSH and RESET both change registers. -/
theorem witness_registers_written :
    (∃ t, step (pending 0#32 0#3 (.command 0x20000003E#34)) = .next t ∧ t.frame ≠ 0#32 ∧ t.rxcnt ≠ 0#3) ∧
    (∃ t, step (pending 0x12345678#32 3#3 (.reset none)) = .next t ∧ t.frame ≠ 0x12345678#32) :=
  ⟨⟨block 0x0000003E#32 1#3, rfl, by decide, by decide⟩, ⟨block 0#32 0#3, rfl, by decide⟩⟩
/-- EveryStepKeepsTheInvariant: a legal short frame about to take a byte. -/
theorem witness_invariant :
    (pending 0x003E807F#32 3#3 (.command 0x200000000#34)).Inv ∧
    step (pending 0x003E807F#32 3#3 (.command 0x200000000#34)) = .next (block 0x3E807F00#32 4#3) :=
  ⟨⟨⟨by decide, by decide⟩, fun _ h => nomatch h⟩, rfl⟩
/-- InstancesAreIndependent: two instances, each with a place. -/
theorem witness_instances :
    [block 0#32 0#3, pending 0#32 0#3 (.command 0x20000003E#34)][1]? = some (pending 0#32 0#3 (.command 0x20000003E#34)) ∧
    0 ≠ 1 ∧ [block 0#32 0#3, pending 0#32 0#3 (.command 0x20000003E#34)][0]? = some (block 0#32 0#3) := by decide
/-- CmdFieldSelectsTheCommand: a word for each CMD, its DIN all ones. -/
theorem witness_cmd_field :
    (0x0FFFFFFFF#34 : CommandWord).extractLsb' 32 2 = 0b00#2 ∧ (0x1FFFFFFFF#34 : CommandWord).extractLsb' 32 2 = 0b01#2 ∧
    (0x2FFFFFFFF#34 : CommandWord).extractLsb' 32 2 = 0b10#2 ∧
    (0x3FFFFFFFF#34 : CommandWord).extractLsb' 32 2 = 0b11#2 := by decide
/-- UnusedDinBitsChangeNothing: two NOPs, two STARTs, two PUSHes of one byte. -/
theorem witness_unused_din :
    ((0x0FFFFFFFF#34 : CommandWord).extractLsb' 32 2 = (0#34 : CommandWord).extractLsb' 32 2 ∧
      (0x0FFFFFFFF#34 : CommandWord).extractLsb' 32 2 = 0b00#2) ∧
    ((0x112345678#34 : CommandWord).extractLsb' 32 2 = (0x100000000#34 : CommandWord).extractLsb' 32 2 ∧
      (0x112345678#34 : CommandWord).extractLsb' 32 2 = 0b01#2) ∧
    ((0x2ABCDEF12#34 : CommandWord).extractLsb' 32 2 = (0x200000012#34 : CommandWord).extractLsb' 32 2 ∧
      (0x2ABCDEF12#34 : CommandWord).extractLsb' 32 2 = 0b10#2 ∧
      (0x2ABCDEF12#34 : CommandWord).extractLsb' 0 8 = (0x200000012#34 : CommandWord).extractLsb' 0 8) := by decide
/-- AssemblyLinesExpand: FRAMEB's bytes at the top of their range. -/
theorem witness_frameb_bytes : 255 < 256 ∧ assemble (.frameb 255 255 255 255) ≠ none := by decide
/-- CommentsDoNotChangeALine. -/
theorem witness_comment : ';' ∉ ['N', 'O', 'P', ' '] := by decide
/-- EveryFrameWordHasOneClass (its last clause), NoClassAppliesToAShortFrame and ValidityQualifiers: three bytes. -/
theorem witness_short_frame : (3#3 : ByteCount).toNat < 4 ∧ (block 0x003E807F#32 3#3).rxcnt.toNat < 4 := by decide
/-- NoClassAppliesToAShortFrame: each class is in its list. -/
theorem witness_class_list (f : FrameWord) :
    Instr.frameUnk f ∈ [Instr.frameOk f, .frameOc f, .frameScg f, .frameScv f, .frameUnk f] := by simp
/-- DecodeOfEncodeIsTheInstruction: a well-formed term of each class, with don't-care bits set. -/
theorem witness_well_formed :
    (Instr.frameOk 0xFFFEFFFF#32).wf = true ∧ (Instr.frameOc 0xFFFFFFFF#32).wf = true ∧
    (Instr.frameScg 0xFFFFFFFE#32).wf = true ∧ (Instr.frameScv 0xFFFFFFFC#32).wf = true ∧
    (Instr.frameUnk 0xFFFFFFF8#32).wf = true ∧ (Instr.push 0xFF#8).wf = true := by decide
/-- EncodeOfDecodeKeepsUsedBits: a frame, a LOAD and a PUSH. -/
theorem witness_decoded_bytes :
    decodeBytes [0xFF#8, 0xFF#8, 0xFF#8, 0xF8#8] = .ok (.frameUnk 0xFFFFFFF8#32) ∧
    decodeBytes [0x03#8, 0xF0#8, 0x61#8, 0xC9#8, 0x03#8] = .ok (.load 0xF061C903#32) ∧
    decodeBytes [0x02#8, 0xAB#8, 0xCD#8, 0xEF#8, 0x12#8] = .ok (.push 0x12#8) := ⟨rfl, rfl, rfl⟩
/-- OnlyMisshapenBytesAreRefused: each clause at its boundary. -/
theorem witness_misshapen_bytes :
    [1#8, 2#8, 3#8].length < 4 ∧ 5 < [1#8, 2#8, 3#8, 4#8, 5#8, 6#8].length ∧ [1#8, 2#8, 3#8, 4#8].length = 4 ∧
    ((3#8 : Byte).toNat < 4 ∧ [0#8, 0#8, 0#8, 0#8].length = 4) ∧ 4 ≤ (4#8 : Byte).toNat := by decide
/-- PushShiftsTheByteIn: the last byte taken and the first dropped. -/
theorem witness_push : (block 0x003E807F#32 3#3).rxcnt.toNat < 4 ∧ 4 ≤ (block 0x3E807F00#32 4#3).rxcnt.toNat := by decide
/-- FourthByteCompletesTheFrame. -/
theorem witness_fourth_byte : (block 0x003E807F#32 3#3).rxcnt.toNat = 3 := by decide
/-- PartialFramesAreRightAligned: four bytes with NOPs among them, from START and from RESET. -/
theorem witness_partial_frame :
    ([some 0x3E#8, none, some 0x80#8, some 0x7F#8, none, none, some 0x00#8].filterMap id).length ≤ 4 ∧
    HostInput.command startWord = .command startWord ∧
    ∃ c, HostInput.reset none = .reset c := ⟨by decide, rfl, none, rfl⟩
/-- CompleteFramesStayUntilReplaced: a NOP and a fifth byte after a complete frame. -/
theorem witness_complete_frame :
    (block 0x80008000#32 4#3).rxcnt = 4#3 ∧
    ∀ x ∈ [HostInput.command 0#34, .command 0x2000000FF#34],
      ∃ w, x = .command w ∧ (decode (.command w) = .nop ∨ ∃ b, decode (.command w) = .push b) := by
  refine ⟨rfl, fun x hx => ?_⟩
  rcases List.mem_pair.mp hx with rfl | rfl
  · exact ⟨_, rfl, .inl rfl⟩
  · exact ⟨_, rfl, .inr ⟨0xFF#8, rfl⟩⟩
/-- NothingIsCarriedOverAFrameStart: START, LOAD and RESET, with a READ after. -/
theorem witness_frame_start :
    decode (.command 0x112345678#34) = .start ∧ (∃ f, decode (.command 0x3F061C903#34) = .load f) ∧
    (∃ c, HostInput.reset none = .reset c) ∧ HostInput.read ∈ [HostInput.read] :=
  ⟨rfl, ⟨0xF061C903#32, rfl⟩, ⟨none, rfl⟩, by simp⟩
/-- ThermocoupleCodeIsSignExtended and ColdJunctionCodeIsSignExtended: the bit ranges. -/
theorem witness_bit_ranges : 13 < 14 ∧ 11 < 12 ∧ 12 ≤ 15 ∧ 15 < 16 := by decide
/-- MagnitudeFormAgrees: the most negative field. -/
theorem witness_negative_field : (0x2000#14 : BitVec 14).getLsbD 13 = true := by decide
/-- CodesRoundTrip: both clauses. -/
theorem witness_codes :
    (0xF061C903#32 : FrameWord).extractLsb' 18 14 = 0x3C18#14 ∧
    (0xF061C903#32 : FrameWord).extractLsb' 4 12 = 0xC90#12 := by decide
/-- ReservedBitsShowOnlyOnFrameOut: both bits. -/
theorem witness_reserved_bits : 0x00020008#32 &&& ~~~0x00020008#32 = 0#32 := by decide
/-- CatalogueOfConditions: the largest legal count. -/
theorem witness_catalogue : (block 0xF061C903#32 4#3).rxcnt.toNat ≤ 4 := by decide
/-- FaultBitsWithoutTheFlagAreAReading. -/
theorem witness_bits_without_flag :
    (block 0x01901907#32 4#3).rxcnt = 4#3 ∧ (block 0x01901907#32 4#3).frame.getLsbD 16 = false := by decide
/-- FrameOkIsAReading, FrameOcIsOpenCircuit, FrameScgIsShortToGround, FrameScvIsShortToSupply, FrameUnkIsUnknown. -/
theorem witness_classes :
    (0xFFFEFFFF#32 : FrameWord) &&& 0x00010000 = 0x00000000 ∧ (0xFFFFFFFF#32 : FrameWord) &&& 0x00010001 = 0x00010001 ∧
    (0xFFFFFFFE#32 : FrameWord) &&& 0x00010003 = 0x00010002 ∧ (0xFFFFFFFC#32 : FrameWord) &&& 0x00010007 = 0x00010004 ∧
    (0xFFFFFFF8#32 : FrameWord) &&& 0x00010007 = 0x00010000 ∧ (block 0xFFFFFFFF#32 4#3).rxcnt = 4#3 := by decide
/-- UnitConversions and UnrecognisedUnitsFallBackToCelsius: the first unrecognised code. -/
theorem witness_unrecognised_unit : 3 < 4 := by decide
/-- ReadTemperatureIsTheSourceAlgorithm and ColdJunctionReadIgnoresTheFlag: a three-byte transport. -/
theorem witness_short_transport : [0x01#8, 0x91#8, 0x19#8].length < 4 := by decide
/-- ExtraTransportBytesAreDropped: five bytes. -/
theorem witness_long_transport : 4 ≤ [0x3E#8, 0x80#8, 0x7F#8, 0x00#8, 0xFF#8].length := by decide
/-- BinaryFormatsHoldTheReading: a reading and the narrowest significand, and a fault. -/
theorem witness_binary_format :
    ((portsOf 0x7FFC0000#32 4#3).tcValid = true ∧ 14 ≤ 14) ∧ (portsOf 0xF061C903#32 4#3).tcValid = false := by decide
/-- WrappersFixTheUnit: a number and an error. -/
theorem witness_wrappers :
    (∃ c t, readTemperature 0 [0x3E#8, 0x80#8, 0x7F#8, 0x00#8] State.reset = some (.ok c, t)) ∧
    (∃ e t, readTemperature 0 [0xF0#8, 0x61#8, 0xC9#8, 0x03#8] State.reset = some (.err e, t)) :=
  ⟨⟨_, _, rfl⟩, ⟨_, _, rfl⟩⟩
/-- HostIgnoresUnqualifiedPorts: two OK frames whose unqualified ports differ. -/
theorem witness_unqualified_ports :
    let p := portsOf 0x01901900#32 4#3
    let q := portsOf 0x01901905#32 4#3
    p.status = q.status ∧ p.tcCode = q.tcCode ∧ p.cjCode = q.cjCode ∧ p.status ≠ .fault ∧
      p.faultKind ≠ q.faultKind := by decide

end Sys2Proof.Tests
end

section
/-!
PROOFS. The family of spec/10_state.md: the registers after reset, the counts a run can reach, and the frame that a
sequence of PUSHes builds. First the layer later proofs can use: what keeps FRAME and RXCNT legal, an induction over
runs, and the captures of a byte sequence.
-/

namespace Sys2Proof.Machine

/-! ## Every step answers and keeps the registers legal -/

theorem State.acceptByte_keeps_legalCapture {s : State} (b : Byte) (h : legalCapture s.frame s.rxcnt) :
    legalCapture (s.acceptByte b).frame (s.acceptByte b).rxcnt := by
  by_cases hn : s.rxcnt < 4#3
  · rw [s.acceptByte_of_lt b hn]
    exact legalCapture_push b h hn
  · rwa [s.acceptByte_of_not_lt b hn]

theorem exec_keeps_legalCapture (i : Instr) {s : State} (h : legalCapture s.frame s.rxcnt) :
    ∃ t, exec i s = .next t ∧ legalCapture t.frame t.rxcnt := by
  cases i with
  | nop => exact ⟨_, rfl, h⟩
  | start => exact ⟨_, rfl, legalCapture_zero⟩
  | push b => exact ⟨_, rfl, State.acceptByte_keeps_legalCapture b h⟩
  | load w => exact ⟨_, rfl, legalCapture_whole w⟩
  | frameOk f => exact ⟨_, rfl, h⟩
  | frameOc f => exact ⟨_, rfl, h⟩
  | frameScg f => exact ⟨_, rfl, h⟩
  | frameScv f => exact ⟨_, rfl, h⟩
  | frameUnk f => exact ⟨_, rfl, h⟩

theorem step_keeps_legalCapture {s : State} (h : legalCapture s.frame s.rxcnt) :
    ∃ t, step s = .next t ∧ legalCapture t.frame t.rxcnt := by
  cases hin : s.inputs with
  | nil => exact ⟨s, step_of_done (fetch_idle hin), h⟩
  | cons x rest =>
    cases x with
    | command w =>
      rw [step_of_run (fetch_command hin)]
      exact exec_keeps_legalCapture _ h
    | reset c => exact ⟨_, step_of_done (fetch_reset hin), legalCapture_zero⟩
    | read =>
      by_cases h4 : s.rxcnt = 4#3
      · rw [step_of_run (fetch_read_whole hin h4)]
        exact exec_keeps_legalCapture _ h
      · exact ⟨_, step_of_done (fetch_read_short hin h4), h⟩

/-! ## What every step keeps, every run keeps -/

theorem runSteps_induction {P : State → Prop} (hstep : ∀ s, P s → ∃ t, step s = .next t ∧ P t) (k : Nat)
    {s : State} (hs : P s) : ∃ t, runSteps k s = .next t ∧ P t := by
  induction k generalizing s with
  | zero => exact ⟨s, rfl, hs⟩
  | succ k ih =>
    obtain ⟨u, hu, hPu⟩ := hstep s hs
    rw [runSteps_succ_of_next hu]
    exact ih hPu

theorem runInputs_keeps_legalCapture (xs : List HostInput) {s : State} (h : legalCapture s.frame s.rxcnt) :
    ∃ t, runInputs xs s = .next t ∧ legalCapture t.frame t.rxcnt :=
  runSteps_induction (P := fun s => legalCapture s.frame s.rxcnt) (fun _ => step_keeps_legalCapture) xs.length
    (s := s.issue xs) h

/-! ## NOPs and PUSHes: the block takes the bytes in order -/

/-- A byte to push, or none for a NOP, as the host issues it. -/
def captureInput (x : Option Byte) : HostInput :=
  .command (match x with | some b => pushWord b | none => nopWord)

theorem runInputs_captureInputs (xs : List (Option Byte)) (ys : List HostInput) (s : State) :
    runInputs (xs.map captureInput ++ ys) s = runInputs ys ((xs.filterMap id).foldl State.acceptByte s) := by
  induction xs generalizing s with
  | nil => rfl
  | cons x xs ih =>
    cases x with
    | none => exact (runInputs_nop _ s).trans (ih s)
    | some b => exact (runInputs_push b _ s).trans (ih (s.acceptByte b))

@[simp] theorem foldl_acceptByte_sampled (bs : List Byte) (s : State) :
    (bs.foldl State.acceptByte s).sampled = s.sampled := by
  induction bs generalizing s with
  | nil => rfl
  | cons b bs ih => exact (ih (s.acceptByte b)).trans (s.acceptByte_sampled b)

@[simp] theorem foldl_acceptByte_inputs (bs : List Byte) (s : State) :
    (bs.foldl State.acceptByte s).inputs = s.inputs := by
  induction bs generalizing s with
  | nil => rfl
  | cons b bs ih => exact (ih (s.acceptByte b)).trans (s.acceptByte_inputs b)

/-! ## The frame that the bytes make -/

theorem toNat_acceptByte_rxcnt {s : State} (b : Byte) (hn : s.rxcnt < 4#3) :
    (s.acceptByte b).rxcnt.toNat = s.rxcnt.toNat + 1 := by
  rw [s.acceptByte_of_lt b hn, State.capture_rxcnt, toNat_count_succ hn]

/-- A short frame holds at most three bytes, so the shift of R72 loses none. -/
theorem toNat_acceptByte_frame {s : State} (b : Byte) (h : legalCapture s.frame s.rxcnt) (hn : s.rxcnt < 4#3) :
    (s.acceptByte b).frame.toNat = s.frame.toNat * 256 + b.toNat := by
  obtain ⟨_, hf⟩ := h
  have hcount : s.rxcnt.toNat < 4 := hn
  have hshort : s.frame.toNat < 2 ^ 24 := hf.trans_le (Nat.pow_le_pow_right (by decide) (by omega))
  rw [s.acceptByte_of_lt b hn, State.capture_frame, toNat_shiftByteIn]
  omega

/-- From a legal state, bytes that do not overfill the frame are all counted, and they follow in base 256 on what the
frame holds. -/
theorem foldl_acceptByte_registers (bs : List Byte) {s : State} (h : legalCapture s.frame s.rxcnt)
    (hroom : s.rxcnt.toNat + bs.length ≤ 4) :
    (bs.foldl State.acceptByte s).rxcnt.toNat = s.rxcnt.toNat + bs.length ∧
    (bs.foldl State.acceptByte s).frame.toNat = bs.foldl (fun acc b => acc * 256 + b.toNat) s.frame.toNat := by
  induction bs generalizing s with
  | nil => exact ⟨rfl, rfl⟩
  | cons b bs ih =>
    rw [List.length_cons] at hroom
    have hn : s.rxcnt < 4#3 := show s.rxcnt.toNat < 4 by omega
    have hcount := toNat_acceptByte_rxcnt b hn
    obtain ⟨hrx, hfr⟩ := ih (State.acceptByte_keeps_legalCapture b h) (by omega)
    rw [toNat_acceptByte_frame b h hn] at hfr
    exact ⟨by rw [List.foldl_cons, List.length_cons, hrx]; omega, hfr⟩

/-- START and RESET begin a frame alike: both registers are zero after either, and the host's side stays. -/
theorem runInputs_frameStart {first : HostInput} (hfirst : first = .command startWord ∨ ∃ c, first = .reset c)
    (xs : List HostInput) (s : State) : runInputs (first :: xs) s = runInputs xs s.resetBlock := by
  obtain rfl | ⟨c, rfl⟩ := hfirst
  · exact runInputs_start xs s
  · exact runInputs_reset c xs s

end Sys2Proof.Machine

namespace Sys2Proof.Proofs

open Machine

/-- Settles O11: the registers are legal after reset and every step keeps them so. -/
theorem reachableCountsAreLegal : Obligations.ReachableCountsAreLegal := by
  intro xs
  obtain ⟨t, hrun, hcount, _⟩ := runInputs_keeps_legalCapture xs (s := State.reset) legalCapture_zero
  exact ⟨t, hrun, hcount⟩

/-- Settles O28: START and RESET leave both registers zero, and from there each PUSH takes its byte, in base 256. -/
theorem partialFramesAreRightAligned : Obligations.PartialFramesAreRightAligned := by
  intro xs first s bytes input hlen hfirst
  have hrun : runInputs (first :: xs.map input) s = .next (bytes.foldl State.acceptByte s.resetBlock) := by
    rw [runInputs_frameStart hfirst, ← List.append_nil (xs.map input)]
    exact runInputs_captureInputs xs [] s.resetBlock
  obtain ⟨hcount, hframe⟩ :=
    foldl_acceptByte_registers bytes (s := s.resetBlock) legalCapture_zero ((Nat.zero_add _).trans_le hlen)
  exact ⟨_, hrun, hcount.trans (Nat.zero_add _), hframe, foldl_acceptByte_sampled bytes s.resetBlock,
    foldl_acceptByte_inputs bytes s.resetBlock⟩

/-- Settles O6: the two fields of State.reset. -/
theorem resetStateHoldsZeroRegisters : Obligations.ResetStateHoldsZeroRegisters := ⟨rfl, rfl⟩

end Sys2Proof.Proofs
end

section
/-!
PROOFS. The family of spec/20_memory.md: words and their bytes. First the layer the other encoding claims can use: the
bytes of a word and the word of bytes are inverse to each other, and so are encoding and decoding on well-formed
instructions.
-/

namespace Sys2Proof

/-! ## A word is its bytes -/

theorem bytes_frame_joinBytes (b0 b1 b2 b3 : Byte) :
    Code.bytes (.frame (joinBytes b0 b1 b2 b3)) = [b0, b1, b2, b3] := by
  obtain ⟨h0, h1, h2, h3⟩ := frameByte_joinBytes b0 b1 b2 b3
  rw [Code.bytes, h0, h1, h2, h3]

@[simp] theorem extractLsb'_commandOf_cmd (cmd : BitVec 2) (din : BitVec 32) :
    (commandOf cmd din).extractLsb' 32 2 = cmd := by
  apply BitVec.eq_of_getLsbD_eq
  intro i hi
  simp [getLsbD_commandOf, hi]

theorem setWidth_cmd_of_top_zero {c : Byte} (h : c.extractLsb' 2 6 = 0) : (c.extractLsb' 0 2).setWidth 8 = c := by
  have htop : c.toNat / 4 % 64 = 0 := by
    simpa [BitVec.extractLsb'_toNat, Nat.shiftRight_eq_div_pow] using congrArg BitVec.toNat h
  apply BitVec.eq_of_toNat_eq
  rw [BitVec.toNat_setWidth, BitVec.extractLsb'_toNat, Nat.shiftRight_zero]
  omega

theorem bytes_commandOf_joinBytes {c : Byte} (h : c.extractLsb' 2 6 = 0) (b0 b1 b2 b3 : Byte) :
    Code.bytes (.command (commandOf (c.extractLsb' 0 2) (joinBytes b0 b1 b2 b3))) = [c, b0, b1, b2, b3] := by
  obtain ⟨h0, h1, h2, h3⟩ := frameByte_joinBytes b0 b1 b2 b3
  simp only [Code.bytes, commandDin_commandOf, extractLsb'_commandOf_cmd, setWidth_cmd_of_top_zero h, h0, h1, h2, h3]

/-- Bytes that are a word are that word's own bytes: no two strings of bytes are read as one word. -/
theorem bytes_of_ofBytes {bs : List Byte} {c : Code} (h : Code.ofBytes bs = .ok c) : c.bytes = bs := by
  unfold Code.ofBytes at h
  split at h
  · cases h
    exact bytes_frame_joinBytes _ _ _ _
  · split at h
    · next htop =>
      cases h
      exact bytes_commandOf_joinBytes htop _ _ _ _
    · cases h
  · cases h

theorem decodeBytes_bytes (c : Code) : decodeBytes c.bytes = .ok (decode c) := by
  cases c with
  | command w => exact decodeBytes_command w
  | frame f => exact decodeBytes_frame f

/-- What decodeBytes can answer: the instruction of the one word whose bytes they are. -/
theorem exists_code_of_decodeBytes {bs : List Byte} {i : Instr} (h : decodeBytes bs = .ok i) :
    ∃ c : Code, c.bytes = bs ∧ decode c = i := by
  unfold decodeBytes at h
  split at h
  · next c hc => exact ⟨c, bytes_of_ofBytes hc, Except.ok.inj h⟩
  · cases h

/-! ## Decoding answers well-formed instructions, and encoding is its inverse on them -/

@[simp] theorem wf_frameOk (f : FrameWord) : (Instr.frameOk f).wf = !f.getLsbD 16 := matchesRow_ok f

@[simp] theorem wf_frameOc (f : FrameWord) : (Instr.frameOc f).wf = (f.getLsbD 16 && f.getLsbD 0) := matchesRow_oc f

@[simp] theorem wf_frameScg (f : FrameWord) :
    (Instr.frameScg f).wf = (f.getLsbD 16 && !f.getLsbD 0 && f.getLsbD 1) := matchesRow_scg f

@[simp] theorem wf_frameScv (f : FrameWord) :
    (Instr.frameScv f).wf = (f.getLsbD 16 && !f.getLsbD 0 && !f.getLsbD 1 && f.getLsbD 2) := matchesRow_scv f

@[simp] theorem wf_frameUnk (f : FrameWord) :
    (Instr.frameUnk f).wf = (f.getLsbD 16 && !f.getLsbD 0 && !f.getLsbD 1 && !f.getLsbD 2) := matchesRow_unk f

/-- Each branch of the decoder tests the bits of its own row of R58. -/
theorem decodeFrame_wf (f : FrameWord) : (decodeFrame f).wf = true := by
  unfold decodeFrame
  split <;> simp_all

theorem decode_wf (c : Code) : (decode c).wf = true := by
  cases c with
  | command w => exact decodeCommand_wf w
  | frame f => exact decodeFrame_wf f

/-- The well-formed instructions are the ones that their own word stands for. -/
theorem decode_encode_iff_wf (i : Instr) : decode (encode i) = i ↔ i.wf = true := by
  refine ⟨fun h => h ▸ decode_wf (encode i), fun h => ?_⟩
  cases i with
  | nop => exact decodeCommand_nopWord
  | start => exact decodeCommand_startWord
  | push b => exact decodeCommand_pushWord b
  | load w => exact decodeCommand_loadWord w
  | frameOk f => simp_all [encode, decode, decodeFrame]
  | frameOc f => simp_all [encode, decode, decodeFrame]
  | frameScg f => simp_all [encode, decode, decodeFrame]
  | frameScv f => simp_all [encode, decode, decodeFrame]
  | frameUnk f => simp_all [encode, decode, decodeFrame]

theorem decodeBytes_encodeBytes {i : Instr} (h : i.wf = true) : decodeBytes (encodeBytes i) = .ok i := by
  rw [encodeBytes, decodeBytes_bytes, (decode_encode_iff_wf i).2 h]

/-! ## What decoding and encoding again keeps of a word -/

/-- R51 and R52: what a command word decodes to, and that LOAD alone leaves no bit of the word unused. -/
theorem decodeCommand_cases (w : CommandWord) :
    decodeCommand w = .nop ∨ decodeCommand w = .start ∨ decodeCommand w = .push (frameByte (commandDin w) 3) ∨
    decodeCommand w = .load (commandDin w) ∧ loadWord (commandDin w) = w := by
  obtain ⟨cmd, din, rfl⟩ : ∃ cmd din, w = commandOf cmd din := ⟨_, _, (commandOf_fields w).symm⟩
  have hcmd : ∀ c : BitVec 2, c = 0b00#2 ∨ c = 0b01#2 ∨ c = 0b10#2 ∨ c = 0b11#2 := by decide
  rw [commandDin_commandOf]
  obtain rfl | rfl | rfl | rfl := hcmd cmd
  · exact .inl (decodeCommand_cmd00 din)
  · exact .inr (.inl (decodeCommand_cmd01 din))
  · exact .inr (.inr (.inl (decodeCommand_cmd10 din)))
  · exact .inr (.inr (.inr ⟨decodeCommand_cmd11 din, rfl⟩))

theorem encode_decode_of_length_four {c : Code} (h : c.bytes.length = 4) : encode (decode c) = c := by
  cases c with
  | command w => cases h
  | frame f => exact encode_decodeFrame f

theorem encode_decode_of_load {c : Code} {d : FrameWord} (h : decode c = .load d) : encode (decode c) = c := by
  cases c with
  | command w =>
    obtain h' | h' | h' | ⟨h', hw⟩ := decodeCommand_cases w
    · cases h.symm.trans h'
    · cases h.symm.trans h'
    · cases h.symm.trans h'
    · exact (congrArg encode h').trans (congrArg Code.command hw)
  | frame f => exact encode_decodeFrame f

theorem getLast?_bytes_of_push {c : Code} {b : Byte} (h : decode c = .push b) : c.bytes.getLast? = some b := by
  cases c with
  | command w =>
    obtain h' | h' | h' | ⟨h', -⟩ := decodeCommand_cases w
    · cases h.symm.trans h'
    · cases h.symm.trans h'
    · cases h.symm.trans h'
      rfl
    · cases h.symm.trans h'
  | frame f => cases (encode_decodeFrame f).symm.trans (congrArg encode h)

end Sys2Proof

namespace Sys2Proof.Proofs

/-- Settles O19: bytes that decode are the bytes of one word, which its instruction's own word repeats but for the bits
that a command does not use. -/
theorem encodeOfDecodeKeepsUsedBits : Obligations.EncodeOfDecodeKeepsUsedBits := by
  intro bs i h
  obtain ⟨c, rfl, rfl⟩ := exists_code_of_decodeBytes h
  have hwf := decode_wf c
  exact ⟨hwf, decodeBytes_encodeBytes hwf, fun hlen => congrArg Code.bytes (encode_decode_of_length_four hlen),
    fun _ hload => congrArg Code.bytes (encode_decode_of_load hload), fun _ hpush => getLast?_bytes_of_push hpush⟩

end Sys2Proof.Proofs
end

section
/-!
PROOFS. The family of spec/30_encoding.md: command words, assembly lines, frame classes and fields. First the layer
later proofs can use: command words by CMD, words and byte formulas as numbers, the four bytes after a frame start,
and the ports as functions of the four fields.
-/

namespace Sys2Proof

/-! ## Command words by their CMD field -/

theorem commandOf_of_cmd_eq {w : CommandWord} {cmd : BitVec 2} (h : w.extractLsb' 32 2 = cmd) :
    w = commandOf cmd (commandDin w) := by
  rw [← h, commandOf_fields]

theorem extractLsb'_commandDin_low (w : CommandWord) : (commandDin w).extractLsb' 0 8 = w.extractLsb' 0 8 := by
  apply BitVec.eq_of_getLsbD_eq
  intro i hi
  simp [commandDin, hi]

/-! ## Words as numbers -/

theorem toNat_append_byte {w : Nat} (x : BitVec w) (b : Byte) : (x ++ b).toNat = x.toNat * 256 + b.toNat := by
  rw [BitVec.toNat_append, Nat.shiftLeft_eq, Nat.mul_comm, ← Nat.two_pow_add_eq_or_of_lt b.isLt, Nat.mul_comm]

theorem toNat_pushWord (b : Byte) : (pushWord b).toNat = 0x200000000 + b.toNat := by
  have hdin : (0#24 ++ b).toNat = b.toNat := by
    rw [toNat_append_byte, BitVec.toNat_zero, Nat.zero_mul, Nat.zero_add]
  exact (toNat_commandOf _ _).trans (congrArg (0x200000000 + ·) hdin)

theorem toNat_joinBytes (b0 b1 b2 b3 : Byte) :
    (joinBytes b0 b1 b2 b3).toNat = ((b0.toNat * 256 + b1.toNat) * 256 + b2.toNat) * 256 + b3.toNat := by
  rw [joinBytes, toNat_append_byte, toNat_append_byte, toNat_append_byte]

theorem joinBytes_ofNat (b0 : Nat) {b1 b2 b3 : Nat} (h1 : b1 < 256) (h2 : b2 < 256) (h3 : b3 < 256) :
    joinBytes (BitVec.ofNat 8 b0) (BitVec.ofNat 8 b1) (BitVec.ofNat 8 b2) (BitVec.ofNat 8 b3) =
      BitVec.ofNat 32 (((b0 * 256 + b1) * 256 + b2) * 256 + b3) := by
  apply BitVec.eq_of_toNat_eq
  simp only [toNat_joinBytes, BitVec.toNat_ofNat]
  omega

/-! ## The rows of R58 -/

/-- The case split is the classifier's priority: under the flag, D0 over D1 over D2. -/
theorem countP_matchesRow (f : FrameWord) :
    ([(0x00010000, 0x00000000), (0x00010001, 0x00010001), (0x00010003, 0x00010002), (0x00010007, 0x00010004),
      (0x00010007, 0x00010000)].countP fun row : FrameWord × FrameWord => matchesRow row.1 row.2 f) = 1 := by
  simp only [List.countP_cons, List.countP_nil, matchesRow_ok, matchesRow_oc, matchesRow_scg, matchesRow_scv,
    matchesRow_unk]
  cases f.getLsbD 16 with
  | false => rfl
  | true =>
    cases f.getLsbD 0 with
    | true => rfl
    | false =>
      cases f.getLsbD 1 with
      | true => rfl
      | false => cases f.getLsbD 2 <;> rfl

namespace Machine

/-! ## The byte formulas of R54, as numbers -/

theorem toNat_setWidth_shiftLeft (b : Byte) {k : Nat} (hk : k ≤ 8) :
    (b.setWidth 16 <<< k).toNat = b.toNat * 2 ^ k := by
  have hfits : b.toNat * 2 ^ k < 2 ^ 16 :=
    calc b.toNat * 2 ^ k < 2 ^ 8 * 2 ^ k := Nat.mul_lt_mul_of_pos_right b.isLt (Nat.two_pow_pos k)
      _ ≤ 2 ^ 8 * 2 ^ 8 := Nat.mul_le_mul_left _ (Nat.pow_le_pow_right (by decide) hk)
  rw [BitVec.toNat_shiftLeft, BitVec.toNat_setWidth_of_le (by decide), Nat.shiftLeft_eq, Nat.mod_eq_of_lt hfits]

theorem toNat_setWidth_shiftRight (b : Byte) (k : Nat) : (b.setWidth 16 >>> k).toNat = b.toNat / 2 ^ k := by
  rw [BitVec.toNat_ushiftRight, BitVec.toNat_setWidth_of_le (by decide), Nat.shiftRight_eq_div_pow]

/-- One byte shifted up and the next shifted down by the rest of its eight bits do not overlap. -/
theorem toNat_shiftLeft_or_shiftRight (hi lo : Byte) {k : Nat} (hk : k ≤ 8) :
    ((hi.setWidth 16 <<< k) ||| (lo.setWidth 16 >>> (8 - k))).toNat =
      hi.toNat * 2 ^ k + lo.toNat / 2 ^ (8 - k) := by
  have hlow : lo.toNat / 2 ^ (8 - k) < 2 ^ k := by
    rw [Nat.div_lt_iff_lt_mul (by positivity), ← pow_add, Nat.add_sub_cancel' hk]
    exact lo.isLt
  rw [BitVec.toNat_or, toNat_setWidth_shiftLeft hi hk, toNat_setWidth_shiftRight, Nat.mul_comm,
    Nat.two_pow_add_eq_or_of_lt hlow]

theorem toNat_tcFromBytes (b0 b1 : Byte) : (tcFromBytes b0 b1).toNat = b0.toNat * 2 ^ 6 + b1.toNat / 2 ^ 2 :=
  toNat_shiftLeft_or_shiftRight b0 b1 (k := 6) (by decide)

theorem toNat_cjFromBytes (b2 b3 : Byte) : (cjFromBytes b2 b3).toNat = b2.toNat * 2 ^ 4 + b3.toNat / 2 ^ 4 :=
  toNat_shiftLeft_or_shiftRight b2 b3 (k := 4) (by decide)

theorem toNat_faultBitsFromByte (b3 : Byte) : (faultBitsFromByte b3).toNat = b3.toNat % 2 ^ 3 := by
  rw [faultBitsFromByte, BitVec.toNat_and, BitVec.toNat_setWidth_of_le (by decide)]
  exact Nat.and_two_pow_sub_one_eq_mod _ 3

theorem toNat_tcRaw (f : FrameWord) : (tcRaw f).toNat = f.toNat / 2 ^ 18 := by
  have := f.isLt
  rw [tcRaw, BitVec.extractLsb'_toNat, Nat.shiftRight_eq_div_pow]
  omega

theorem toNat_cjRaw (f : FrameWord) : (cjRaw f).toNat = f.toNat / 2 ^ 4 % 2 ^ 12 := by
  rw [cjRaw, BitVec.extractLsb'_toNat, Nat.shiftRight_eq_div_pow]

theorem toNat_faultBits (f : FrameWord) : (faultBits f).toNat = f.toNat % 2 ^ 3 := by
  rw [faultBits, BitVec.extractLsb'_toNat, Nat.shiftRight_zero]

/-! ## A whole frame from its start -/

/-- The four bytes after START or RESET are the frame, however the host issued them. -/
theorem foldl_acceptByte_resetBlock (b0 b1 b2 b3 : Byte) (s : State) :
    [b0, b1, b2, b3].foldl State.acceptByte s.resetBlock = s.capture (joinBytes b0 b1 b2 b3) 4#3 := by
  obtain ⟨hcount, hframe⟩ :=
    foldl_acceptByte_registers [b0, b1, b2, b3] (s := s.resetBlock) legalCapture_zero (le_refl 4)
  apply State.eq_of_fields
  · apply BitVec.eq_of_toNat_eq
    rw [hframe, State.capture_frame, toNat_joinBytes]
    simp
  · exact BitVec.eq_of_toNat_eq hcount
  · exact foldl_acceptByte_sampled _ _
  · exact foldl_acceptByte_inputs _ _

/-- R75 for the expansion of FRAME and FRAMEB. -/
theorem runInputs_frameInputs (b0 b1 b2 b3 : Byte) (s : State) :
    runInputs (frameInputs b0 b1 b2 b3) s = .next (s.capture (joinBytes b0 b1 b2 b3) 4#3) := by
  rw [← foldl_acceptByte_resetBlock]
  exact (runInputs_start _ s).trans
    (runInputs_captureInputs [some b0, some b1, some b2, some b3] [] (s.capture 0#32 0#3))

/-! ## The assembler, line by line -/

theorem assemble_push (n : Nat) :
    assemble (.push n) = if n < 256 then some [.command (pushWord (BitVec.ofNat 8 n))] else none := by
  simp [assemble, AsmLine.inRange, AsmLine.inputs]

theorem assemble_load (n : Nat) :
    assemble (.load n) = if n < 4294967296 then some [.command (loadWord (BitVec.ofNat 32 n))] else none := by
  simp [assemble, AsmLine.inRange, AsmLine.inputs]

theorem assemble_frame (n : Nat) :
    assemble (.frame n) = if n < 4294967296 then some (AsmLine.frame n).inputs else none := by
  simp [assemble, AsmLine.inRange]

theorem assemble_frameb (b0 b1 b2 b3 : Nat) :
    assemble (.frameb b0 b1 b2 b3) =
      if b0 < 256 ∧ b1 < 256 ∧ b2 < 256 ∧ b3 < 256 then some (AsmLine.frameb b0 b1 b2 b3).inputs else none := by
  simp [assemble, AsmLine.inRange, and_assoc]

/-! ## The ports read the four fields -/

/-- Frames with the same four fields drive the same ports, FRAME_OUT apart. -/
theorem portsOf_eq_of_fields {f g : FrameWord} (htc : tcRaw g = tcRaw f) (hflag : faultFlag g = faultFlag f)
    (hcj : cjRaw g = cjRaw f) (hbits : faultBits g = faultBits f) (n : ByteCount) :
    portsOf g n = { portsOf f n with frameOut := g } := by
  simp only [portsOf, portsWith, tcCode, cjCode, htc, hflag, hcj, hbits]

/-- The reserved bits are D17 and D3. -/
theorem getLsbD_eq_false_of_reserved {m : FrameWord} (h : m &&& ~~~0x00020008#32 = 0#32) {i : Nat} (h3 : i ≠ 3)
    (h17 : i ≠ 17) : m.getLsbD i = false := by
  by_cases hi : i < 32
  · have hmask : ∀ j < 32, j ≠ 3 → j ≠ 17 → (~~~0x00020008#32).getLsbD j = true := by decide
    have hbit : (m.getLsbD i && (~~~0x00020008#32).getLsbD i) = false := by
      rw [← BitVec.getLsbD_and, h, BitVec.getLsbD_zero]
    rwa [hmask i hi h3 h17, Bool.and_true] at hbit
  · exact BitVec.getLsbD_of_ge m i (not_lt.mp hi)

theorem extractLsb'_xor_of_disjoint {m : FrameWord} {start len : Nat}
    (h : ∀ i, i < len → m.getLsbD (start + i) = false) (f : FrameWord) :
    (f ^^^ m).extractLsb' start len = f.extractLsb' start len := by
  apply BitVec.eq_of_getLsbD_eq
  intro i hi
  simp [h i hi]

end Machine

end Sys2Proof

namespace Sys2Proof.Proofs

open Machine

/-- Settles O12: a word is its CMD and its DIN, and the decoder's four cases are CMD's four values. -/
theorem cmdFieldSelectsTheCommand : Obligations.CmdFieldSelectsTheCommand := by
  intro w
  have four_values : ∀ c : BitVec 2, c = 0b00#2 ∨ c = 0b01#2 ∨ c = 0b10#2 ∨ c = 0b11#2 := by decide
  refine ⟨fun h => ?_, fun h => ?_, fun h => ?_, fun h => ?_, four_values _⟩
  · rw [commandOf_of_cmd_eq h]
    exact decodeCommand_cmd00 _
  · rw [commandOf_of_cmd_eq h]
    exact decodeCommand_cmd01 _
  · rw [← extractLsb'_commandDin_low, commandOf_of_cmd_eq h, commandDin_commandOf]
    exact decodeCommand_cmd10 _
  · exact (congrArg decodeCommand (commandOf_of_cmd_eq h)).trans (decodeCommand_cmd11 _)

/-- Settles O14: CMD stands above DIN, and DIN is the operand. -/
theorem assembledCommandWords : Obligations.AssembledCommandWords :=
  ⟨rfl, rfl, fun b => ⟨pushWord b, rfl, toNat_pushWord b⟩, fun f => ⟨loadWord f, rfl, toNat_commandOf _ f⟩⟩

/-- Settles O15: the assembler line by line, and the run of a frame's expansion. -/
theorem assemblyLinesExpand : Obligations.AssemblyLinesExpand := by
  intro n b0 b1 b2 b3 s push w frame frameb
  refine ⟨assemble_push n, assemble_load n, assemble_frame n, assemble_frameb b0 b1 b2 b3, ⟨rfl, rfl, rfl⟩, ?_,
    fun _ h1 h2 h3 => ?_⟩
  · have hrun := runInputs_frameInputs (frameByte w 0) (frameByte w 1) (frameByte w 2) (frameByte w 3) s
    rwa [joinBytes_frameByte] at hrun
  · rw [← joinBytes_ofNat b0 h1 h2 h3]
    exact runInputs_frameInputs _ _ _ _ s

/-- Settles O17: each class is well-formed exactly on its row, and one row holds. -/
theorem everyFrameWordHasOneClass : Obligations.EveryFrameWordHasOneClass := by
  intro f
  refine ⟨countP_matchesRow f, ?_, ?_, ?_, ?_, ?_, decode_wf _, fun n hn => ?_⟩
  · exact (decode_encode_iff_wf (.frameOk f)).trans beq_iff_eq
  · exact (decode_encode_iff_wf (.frameOc f)).trans beq_iff_eq
  · exact (decode_encode_iff_wf (.frameScg f)).trans beq_iff_eq
  · exact (decode_encode_iff_wf (.frameScv f)).trans beq_iff_eq
  · exact (decode_encode_iff_wf (.frameUnk f)).trans beq_iff_eq
  · rw [portsOf_status, statusOf, gateStatus_short hn]
    rfl

/-- Settles O35: the formulas and the fields are the same quotients and remainders of the bytes. -/
theorem byteFormulasSelectTheFields : Obligations.ByteFormulasSelectTheFields := by
  intro b0 b1 b2 b3 f
  have hf : f.toNat = ((b0.toNat * 256 + b1.toNat) * 256 + b2.toNat) * 256 + b3.toNat := toNat_joinBytes b0 b1 b2 b3
  have h0 := b0.isLt
  have h1 := b1.isLt
  have h2 := b2.isLt
  have h3 := b3.isLt
  refine ⟨?_, ?_, ?_, ?_, ?_, ?_⟩
  · rw [toNat_tcFromBytes, toNat_tcRaw]
    omega
  · exact ((getLsbD_joinBytes b0 b1 b2 b3 16).trans rfl).symm
  · rw [toNat_cjFromBytes, toNat_cjRaw]
    omega
  · rw [toNat_faultBitsFromByte, toNat_faultBits]
    omega
  · rw [toNat_setWidth_shiftLeft b0 (by decide)]
    omega
  · rw [toNat_setWidth_shiftRight]
    omega

/-- Settles O38: no field holds D17 or D3, so every port but FRAME_OUT stays. -/
theorem reservedBitsShowOnlyOnFrameOut : Obligations.ReservedBitsShowOnlyOnFrameOut := by
  intro f m n h
  have hm : ∀ i, i ≠ 3 → i ≠ 17 → m.getLsbD i = false := fun i => getLsbD_eq_false_of_reserved h
  apply portsOf_eq_of_fields
  · exact extractLsb'_xor_of_disjoint (fun i hi => hm _ (by omega) (by omega)) f
  · rw [faultFlag, BitVec.getLsbD_xor, hm 16 (by decide) (by decide), Bool.xor_false]
    rfl
  · exact extractLsb'_xor_of_disjoint (fun i hi => hm _ (by omega) (by omega)) f
  · exact extractLsb'_xor_of_disjoint (fun i hi => hm _ (by omega) (by omega)) f

end Sys2Proof.Proofs
end

section
/-!
PROOFS. The family of spec/40_frame_capture.md: the four commands of the command port, and the two ways a frame comes
into FRAME. First the layer later proofs can use: the status ports by the byte count, what PUSH does to each bit of
FRAME, and that NOPs may be struck out of a run.
-/

namespace Sys2Proof.Machine

/-! ## The status ports by the byte count -/

theorem Status.code_eq_malformed_iff (st : Status) : st.code = 0b10#2 ↔ st = .malformed := by
  cases st <;> decide

theorem out_status_of_short {s : State} (h : s.rxcnt < 4#3) : s.out.status = .malformed := gateStatus_short h _

theorem out_status_of_whole {s : State} (h : ¬s.rxcnt < 4#3) :
    s.out.status = if s.frame.getLsbD 16 then .fault else .ok := gateStatus_whole h _

theorem out_status_eq_malformed_iff (s : State) : s.out.status = .malformed ↔ s.rxcnt < 4#3 := by
  refine ⟨fun hst => ?_, out_status_of_short⟩
  by_contra h
  rw [out_status_of_whole h] at hst
  split at hst <;> cases hst

theorem out_tcValid_of_short {s : State} (h : s.rxcnt < 4#3) : s.out.tcValid = false :=
  congrArg tcValidOf (out_status_of_short h)

theorem out_cjValid_of_short {s : State} (h : s.rxcnt < 4#3) : s.out.cjValid = false :=
  decide_eq_false (BitVec.ne_of_lt h)

/-! ## One PUSH -/

/-- R72's shift as a PUSH into a short frame makes it. -/
theorem getLsbD_acceptByte_frame {s : State} (b : Byte) (hn : s.rxcnt < 4#3) (i : Nat) :
    (s.acceptByte b).frame.getLsbD i =
      if i < 8 then b.getLsbD i else (decide (i < 32) && s.frame.getLsbD (i - 8)) := by
  rw [s.acceptByte_of_lt b hn, State.capture_frame, getLsbD_shiftByteIn]
  split
  · rfl
  · have hrange : decide (i - 8 < 24) = decide (i < 32) := decide_eq_decide.2 (by omega)
    rw [hrange]

/-! ## NOPs -/

theorem runInputs_nops (n : Nat) (xs : List HostInput) (s : State) :
    runInputs (List.replicate n (.command nopWord) ++ xs) s = runInputs xs s := by
  induction n with
  | zero => rfl
  | succ n ih => exact (runInputs_nop _ s).trans ih

end Sys2Proof.Machine

namespace Sys2Proof.Proofs

open Machine

/-- Settles O24: a short frame takes the byte and is whole exactly at four bytes, a whole one drops it. -/
theorem pushShiftsTheByteIn : Obligations.PushShiftsTheByteIn := by
  intro din b s
  refine ⟨decodeCommand_cmd10 din, fun hn => ?_, fun hn => ?_⟩
  · have hcount : (s.acceptByte b).rxcnt.toNat = s.rxcnt.toNat + 1 := toNat_acceptByte_rxcnt b hn
    refine ⟨s.acceptByte b, rfl, getLsbD_acceptByte_frame b hn, hcount, s.acceptByte_sampled b,
      s.acceptByte_inputs b, ?_⟩
    rw [Ne, Status.code_eq_malformed_iff, out_status_eq_malformed_iff, BitVec.lt_def, ← BitVec.toNat_inj, hcount]
    change ¬s.rxcnt.toNat + 1 < 4 ↔ s.rxcnt.toNat + 1 = 4
    omega
  · exact congrArg Host.Outcome.next (s.acceptByte_of_not_lt b (not_lt.mpr hn))

/-- Settles O27: with the NOPs struck out, START and the bytes of `w` capture their join, which is `w`. -/
theorem bothCapturePathsAgree : Obligations.BothCapturePathsAgree := by
  intro w n1 n2 n3 n4 s nops byte
  refine ⟨?_, runInputs_load w [] s⟩
  have hbytes : [frameByte w 0, frameByte w 1, frameByte w 2, frameByte w 3].foldl State.acceptByte s.resetBlock =
      s.capture w 4#3 := by
    rw [foldl_acceptByte_resetBlock, joinBytes_frameByte]
  simp only [nops, byte, List.append_assoc, List.cons_append, runInputs_start, runInputs_nops, runInputs_push,
    runInputs_nil]
  exact congrArg Host.Outcome.next hbytes

/-- Settles O22: the decoder reads CMD alone, and NOP's meaning is the state itself. -/
theorem nopChangesNothing : Obligations.NopChangesNothing :=
  fun din _ => ⟨decodeCommand_cmd00 din, rfl⟩

/-- Settles O23: after START no byte has arrived, so the status ports are those of a short frame. -/
theorem startBeginsAFrame : Obligations.StartBeginsAFrame := by
  intro din s
  have hshort : (s.capture 0#32 0#3).rxcnt < 4#3 := show (0#3 : ByteCount) < 4#3 by decide
  exact ⟨decodeCommand_cmd01 din, s.capture 0#32 0#3, rfl, rfl, congrArg Status.code (out_status_of_short hshort),
    out_tcValid_of_short hshort, out_cjValid_of_short hshort⟩

/-- Settles O26: LOAD makes the frame whole, and a whole frame's STATUS is by its D16. -/
theorem loadDeliversAFrame : Obligations.LoadDeliversAFrame := by
  intro w s
  have hwhole : ¬(s.capture w 4#3).rxcnt < 4#3 := BitVec.lt_irrefl 4#3
  refine ⟨decodeCommand_cmd11 w, s.capture w 4#3, rfl, rfl, ?_⟩
  rw [out_status_of_whole hwhole, apply_ite Status.code]
  rfl

end Sys2Proof.Proofs
end

section
/-!
PROOFS. The family of spec/41_field_decode.md: the two codes, their round trip and the source's magnitude form. First
the layer later proofs can use: a field widened to a port by its sign, the magnitude form at any width below the
port's, and the bits and integers of the two fields.
-/

namespace Sys2Proof.Machine

/-! ## Sign extension to a port -/

theorem getLsbD_signExtend_of_lt {k i : Nat} (hi : i < k) (hk : k ≤ 16) (v : BitVec k) :
    (v.signExtend 16).getLsbD i = v.getLsbD i := by
  rw [BitVec.getLsbD_signExtend, if_pos hi, decide_eq_true (hi.trans_le hk), Bool.true_and]

theorem getLsbD_signExtend_of_ge {k i : Nat} (hk : k ≤ i) (hi : i < 16) (v : BitVec k) :
    (v.signExtend 16).getLsbD i = v.getLsbD (k - 1) := by
  rw [BitVec.getLsbD_signExtend, if_neg (not_lt.mpr hk), decide_eq_true hi, Bool.true_and,
    BitVec.msb_eq_getLsbD_last]

theorem extractLsb'_signExtend_low {k : Nat} (hk : k ≤ 16) (v : BitVec k) :
    (v.signExtend 16).extractLsb' 0 k = v := by
  apply BitVec.eq_of_getLsbD_eq
  intro i hi
  rw [BitVec.getLsbD_extractLsb', Nat.zero_add, getLsbD_signExtend_of_lt hi hk, decide_eq_true hi, Bool.true_and]

@[simp] theorem toInt_tcCode (f : FrameWord) : (tcCode f).toInt = (tcRaw f).toInt :=
  BitVec.toInt_signExtend_of_le (by decide)

@[simp] theorem toInt_cjCode (f : FrameWord) : (cjCode f).toInt = (cjRaw f).toInt :=
  BitVec.toInt_signExtend_of_le (by decide)

/-! ## The bits of the fields and of the codes -/

theorem getLsbD_tcRaw (f : FrameWord) {i : Nat} (h : i < 14) : (tcRaw f).getLsbD i = f.getLsbD (i + 18) := by
  simp [tcRaw, h, Nat.add_comm]

theorem getLsbD_cjRaw (f : FrameWord) {i : Nat} (h : i < 12) : (cjRaw f).getLsbD i = f.getLsbD (i + 4) := by
  simp [cjRaw, h, Nat.add_comm]

theorem getLsbD_tcCode_low (f : FrameWord) {i : Nat} (h : i < 14) : (tcCode f).getLsbD i = f.getLsbD (i + 18) :=
  (getLsbD_signExtend_of_lt h (by decide) (tcRaw f)).trans (getLsbD_tcRaw f h)

theorem getLsbD_cjCode_low (f : FrameWord) {i : Nat} (h : i < 12) : (cjCode f).getLsbD i = f.getLsbD (i + 4) :=
  (getLsbD_signExtend_of_lt h (by decide) (cjRaw f)).trans (getLsbD_cjRaw f h)

/-- The bits above TC_RAW are copies of its sign bit D31. -/
theorem getLsbD_tcCode_high (f : FrameWord) {i : Nat} (h : 14 ≤ i) (h16 : i < 16) :
    (tcCode f).getLsbD i = f.getLsbD 31 :=
  (getLsbD_signExtend_of_ge h h16 (tcRaw f)).trans (getLsbD_tcRaw f (by decide))

/-- The bits above CJ_RAW are copies of its sign bit D15 (90_conflicts.md C2). -/
theorem getLsbD_cjCode_high (f : FrameWord) {i : Nat} (h : 12 ≤ i) (h16 : i < 16) :
    (cjCode f).getLsbD i = f.getLsbD 15 :=
  (getLsbD_signExtend_of_ge h h16 (cjRaw f)).trans (getLsbD_cjRaw f (by decide))

/-! ## The magnitude form, at any width below the port's -/

/-- The mask of `k` low bits drops what complementing set above the field. -/
theorem not_setWidth_and_mask {k : Nat} (v : BitVec k) :
    ~~~(v.setWidth 16) &&& BitVec.ofNat 16 (2 ^ k - 1) = (~~~v).setWidth 16 := by
  apply BitVec.eq_of_getLsbD_eq
  intro i hi
  have hmask : (BitVec.ofNat 16 (2 ^ k - 1)).getLsbD i = decide (i < k) := by
    rw [BitVec.getLsbD_ofNat, Nat.testBit_two_pow_sub_one, decide_eq_true hi, Bool.true_and]
  rw [BitVec.getLsbD_and, hmask, Bool.and_comm]
  simp [hi]

/-- No overflow: the magnitude is at most `2 ^ k`, which sixteen bits hold. -/
theorem toNat_magnitude {k : Nat} (hk : k < 16) (v : BitVec k) :
    ((~~~(v.setWidth 16) &&& BitVec.ofNat 16 (2 ^ k - 1)) + 1#16).toNat = 2 ^ k - v.toNat := by
  have hv := v.isLt
  have hfits : 2 ^ k < 2 ^ 16 := Nat.pow_lt_pow_right (by decide) hk
  rw [not_setWidth_and_mask, BitVec.toNat_add, BitVec.toNat_setWidth_of_le hk.le, BitVec.toNat_not,
    BitVec.toNat_ofNat]
  omega

/-- Where the sign bit is set, the negated magnitude is the field's value less `2 ^ k`. -/
theorem ite_neg_magnitude_eq_toInt {k : Nat} (hk : k < 16) (v : BitVec k) :
    (if (v.setWidth 16).getLsbD (k - 1) then
        -(((~~~(v.setWidth 16) &&& BitVec.ofNat 16 (2 ^ k - 1)) + 1#16).toNat : Int)
      else ((v.setWidth 16).toNat : Int)) = v.toInt := by
  have hsign : (v.setWidth 16).getLsbD (k - 1) = v.msb := by
    have hlast : k - 1 < 16 := by omega
    rw [BitVec.getLsbD_setWidth, decide_eq_true hlast, Bool.true_and, BitVec.msb_eq_getLsbD_last]
  rw [hsign, toNat_magnitude hk, BitVec.toNat_setWidth_of_le hk.le, BitVec.toInt_eq_msb_cond,
    Nat.cast_sub v.isLt.le, neg_sub]

theorem tcByMagnitude_setWidth (v : BitVec 14) : tcByMagnitude (v.setWidth 16) = v.toInt :=
  ite_neg_magnitude_eq_toInt (by decide) v

theorem cjByMagnitude_setWidth (v : BitVec 12) : cjByMagnitude (v.setWidth 16) = v.toInt :=
  ite_neg_magnitude_eq_toInt (by decide) v

/-! ## The integers of the fields -/

theorem toInt_tcRaw (f : FrameWord) :
    (tcRaw f).toInt =
      if f.toNat / 2 ^ 18 < 8192 then ((f.toNat / 2 ^ 18 : Nat) : Int)
      else ((f.toNat / 2 ^ 18 : Nat) : Int) - 16384 := by
  rw [BitVec.toInt_eq_toNat_cond, toNat_tcRaw]
  exact if_congr (by omega) rfl rfl

theorem toInt_cjRaw (f : FrameWord) :
    (cjRaw f).toInt =
      if f.toNat % 2 ^ 16 / 2 ^ 4 < 2048 then ((f.toNat % 2 ^ 16 / 2 ^ 4 : Nat) : Int)
      else ((f.toNat % 2 ^ 16 / 2 ^ 4 : Nat) : Int) - 4096 := by
  have hraw : (cjRaw f).toNat = f.toNat % 2 ^ 16 / 2 ^ 4 := by
    rw [toNat_cjRaw]
    omega
  rw [BitVec.toInt_eq_toNat_cond, hraw]
  exact if_congr (by omega) rfl rfl

end Sys2Proof.Machine

namespace Sys2Proof.Proofs

open Machine

/-- Settles O32: widening by the sign keeps the integer of D31..D18, and the bits above are copies of D31. -/
theorem thermocoupleCodeIsSignExtended : Obligations.ThermocoupleCodeIsSignExtended := by
  intro f n raw code
  have hint : code.toInt = (tcRaw f).toInt := toInt_tcCode f
  have hsign : code.getLsbD 13 = f.getLsbD 31 := getLsbD_tcCode_low f (by decide)
  refine ⟨hint.trans (toInt_tcRaw f), hint ▸ (tcRaw f).le_toInt, hint ▸ BitVec.toInt_le,
    fun _ => getLsbD_tcCode_low f, ?_, ?_⟩
  · exact (getLsbD_tcCode_high f (by decide) (by decide)).trans hsign.symm
  · exact (getLsbD_tcCode_high f (by decide) (by decide)).trans hsign.symm

/-- Settles O33: widening by the sign keeps the integer of D15..D4, which the magnitude form gives as well. -/
theorem coldJunctionCodeIsSignExtended : Obligations.ColdJunctionCodeIsSignExtended := by
  intro f n raw code
  have hint : code.toInt = (cjRaw f).toInt := toInt_cjCode f
  exact ⟨hint.trans (toInt_cjRaw f), hint ▸ (cjRaw f).le_toInt, hint ▸ BitVec.toInt_le,
    fun _ => getLsbD_cjCode_low f, fun _ => getLsbD_cjCode_high f,
    (cjByMagnitude_setWidth (cjRaw f)).trans hint.symm, cjByMagnitude_setWidth 0x800#12⟩

/-- Settles O36: the magnitude is 2^14 less the field, and a field with bit 13 set is at least 2^13. -/
theorem magnitudeFormAgrees : Obligations.MagnitudeFormAgrees := by
  refine ⟨fun v => ⟨tcByMagnitude_setWidth v, fun hbit => ?_⟩, by decide, tcByMagnitude_setWidth 0x2000#14⟩
  have hv := v.isLt
  have hlarge : 2 ^ 13 ≤ v.toNat := by
    rw [← BitVec.msb_eq_getLsbD_last, BitVec.msb_eq_decide] at hbit
    exact of_decide_eq_true hbit
  have hmag : ((~~~(v.setWidth 16) &&& 0x3FFF#16) + 1#16).toNat = 2 ^ 14 - v.toNat := toNat_magnitude (by decide) v
  rw [hmag]
  omega

/-- Settles O37: a code's low bits are its field, and widening by the sign keeps the field's integer. -/
theorem codesRoundTrip : Obligations.CodesRoundTrip := by
  intro f n v u
  have htc : (tcCode f).extractLsb' 0 14 = tcRaw f := extractLsb'_signExtend_low (by decide) (tcRaw f)
  refine ⟨fun hv => ⟨htc.trans hv, ?_⟩, fun hu => ?_⟩
  · rw [portsOf_tcCode, htc, toInt_tcCode]
  · exact (extractLsb'_signExtend_low (by decide) (cjRaw f)).trans hu

/-- Settles O34: each port is its bits of FRAME, or the register itself. -/
theorem flagAndReadbackPorts : Obligations.FlagAndReadbackPorts := by
  intro s
  exact ⟨rfl, toNat_faultBits s.frame, faultBits_getLsbD s.frame (by decide), faultBits_getLsbD s.frame (by decide),
    faultBits_getLsbD s.frame (by decide), rfl, rfl⟩

end Sys2Proof.Proofs
end

section
/-!
PROOFS. The family of spec/42_fault_classifier.md: the muxes of FAULT_KIND and STATUS, the valid bits, and the five
classes of a complete frame. First the layer later proofs can use: the bits that a row of R58 fixes, FAULT_KIND by the
fault bits, the status ports by their causes, and what a class samples of a complete frame.
-/

namespace Sys2Proof

/-! ## The bits that a row of R58 fixes -/

theorem getLsbD_of_row {f mask value : FrameWord} (h : f &&& mask = value) {i : Nat} (hi : mask.getLsbD i = true) :
    f.getLsbD i = value.getLsbD i := by
  rw [← h, BitVec.getLsbD_and, hi, Bool.and_true]

theorem extractLsb'_of_row {f mask value : FrameWord} (h : f &&& mask = value) {start len : Nat}
    (hmask : ∀ i < len, mask.getLsbD (start + i) = true) :
    f.extractLsb' start len = value.extractLsb' start len := by
  apply BitVec.eq_of_getLsbD_eq
  intro i hi
  rw [BitVec.getLsbD_extractLsb', BitVec.getLsbD_extractLsb', getLsbD_of_row h (hmask i hi)]

namespace Machine

/-! ## FAULT_KIND by the fault bits, over the eight rows of R100 -/

theorem faultKind_eq_openCircuit_iff : ∀ bits : BitVec 3,
    faultKind bits = .openCircuit ↔ bits.getLsbD 0 = true := by
  decide

theorem faultKind_eq_shortToGround_iff : ∀ bits : BitVec 3,
    faultKind bits = .shortToGround ↔ bits.getLsbD 0 = false ∧ bits.getLsbD 1 = true := by
  decide

theorem faultKind_eq_shortToSupply_iff : ∀ bits : BitVec 3,
    faultKind bits = .shortToSupply ↔
      bits.getLsbD 0 = false ∧ bits.getLsbD 1 = false ∧ bits.getLsbD 2 = true := by
  decide

theorem faultKind_eq_unknown_iff : ∀ bits : BitVec 3,
    faultKind bits = .unknown ↔ bits.getLsbD 0 = false ∧ bits.getLsbD 1 = false ∧ bits.getLsbD 2 = false := by
  decide

/-! ## The status ports by their causes -/

theorem Status.code_eq_ok_iff (st : Status) : st.code = 0b00#2 ↔ st = .ok := by
  cases st <;> decide

/-- The code that R102 leaves undriven. -/
theorem Status.code_ne_three (st : Status) : st.code ≠ 0b11#2 := by
  cases st <;> decide

theorem out_tcValid_iff (s : State) : s.out.tcValid = true ↔ s.out.status = .ok := decide_eq_true_iff

theorem out_cjValid_iff (s : State) : s.out.cjValid = true ↔ s.rxcnt = 4#3 := decide_eq_true_iff

theorem out_status_of_four {s : State} (h4 : s.rxcnt = 4#3) :
    s.out.status = if s.frame.getLsbD 16 then .fault else .ok :=
  out_status_of_whole (h4 ▸ BitVec.lt_irrefl 4#3)

/-! ## What a class samples of a complete frame -/

/-- With four bytes STATUS is the class's own and the cold junction is valid; flag and fault bits are the word's. -/
theorem State.recordClass_of_four {s : State} (h4 : s.rxcnt = 4#3) {f : FrameWord} {flag : Bool} {bits : BitVec 3}
    (hflag : faultFlag f = flag) (hbits : faultBits f = bits) (k : FaultKind) (st : Status) :
    s.recordClass f k st = s.record
      { tcCode := tcCode f, faultFlag := flag, cjCode := cjCode f, faultBits := bits, faultKind := k, status := st,
        tcValid := tcValidOf st, cjValid := true, frameOut := f, rxcntOut := 4#3 } := by
  subst hflag hbits
  rw [State.recordClass, h4]
  rfl

end Machine

end Sys2Proof

namespace Sys2Proof.Proofs

open Machine

/-- Settles O44: the row fixes D16 = 0, and the class samples OK with the mux over the word's own fault bits. -/
theorem frameOkIsAReading : Obligations.FrameOkIsAReading := by
  intro f s hrow h4
  have hflag : faultFlag f = false := getLsbD_of_row hrow (by decide)
  exact congrArg Host.Outcome.next (State.recordClass_of_four h4 hflag rfl (faultKind (faultBits f)) .ok)

/-- Settles O45: the row fixes D16 = 1. -/
theorem frameOcIsOpenCircuit : Obligations.FrameOcIsOpenCircuit := by
  intro f s hrow h4
  have hflag : faultFlag f = true := getLsbD_of_row hrow (by decide)
  exact congrArg Host.Outcome.next (State.recordClass_of_four h4 hflag rfl .openCircuit .fault)

/-- Settles O46: the row fixes D16 = 1. -/
theorem frameScgIsShortToGround : Obligations.FrameScgIsShortToGround := by
  intro f s hrow h4
  have hflag : faultFlag f = true := getLsbD_of_row hrow (by decide)
  exact congrArg Host.Outcome.next (State.recordClass_of_four h4 hflag rfl .shortToGround .fault)

/-- Settles O47: the row fixes D16 = 1 and all three fault bits, 100. -/
theorem frameScvIsShortToSupply : Obligations.FrameScvIsShortToSupply := by
  intro f s hrow h4
  have hflag : faultFlag f = true := getLsbD_of_row hrow (by decide)
  have hbits : faultBits f = 0b100#3 := extractLsb'_of_row hrow (by decide)
  exact congrArg Host.Outcome.next (State.recordClass_of_four h4 hflag hbits .shortToSupply .fault)

/-- Settles O48: the row fixes D16 = 1 and all three fault bits, 000. -/
theorem frameUnkIsUnknown : Obligations.FrameUnkIsUnknown := by
  intro f s hrow h4
  have hflag : faultFlag f = true := getLsbD_of_row hrow (by decide)
  have hbits : faultBits f = 0b000#3 := extractLsb'_of_row hrow (by decide)
  exact congrArg Host.Outcome.next (State.recordClass_of_four h4 hflag hbits .unknown .fault)

/-- Settles O39: the mux's eight rows, whose three bits are D2..D0 of FRAME. -/
theorem faultKindFollowsThePriority : Obligations.FaultKindFollowsThePriority := by
  refine ⟨by decide, fun s => ?_⟩
  rw [← faultBits_getLsbD s.frame (i := 0) (by decide), ← faultBits_getLsbD s.frame (i := 1) (by decide),
    ← faultBits_getLsbD s.frame (i := 2) (by decide)]
  exact ⟨faultKind_eq_openCircuit_iff _, faultKind_eq_shortToGround_iff _, faultKind_eq_shortToSupply_iff _,
    faultKind_eq_unknown_iff _⟩

/-- Settles O40: a short frame is MALFORMED, and a whole one goes by its flag. -/
theorem statusMuxPrecedence : Obligations.StatusMuxPrecedence := by
  intro s
  refine ⟨?_, Status.code_ne_three _⟩
  by_cases hn : s.rxcnt.toNat < 4
  · rw [if_pos hn, out_status_of_short hn]
    rfl
  · rw [if_neg hn, out_status_of_whole hn, apply_ite Status.code]
    rfl

/-- Settles O41: TC_VALID and CJ_VALID are the comparisons themselves, and a short frame fails both. -/
theorem validityQualifiers : Obligations.ValidityQualifiers := by
  intro s
  exact ⟨(out_tcValid_iff s).trans (Status.code_eq_ok_iff _).symm, out_cjValid_iff s,
    fun hn => ⟨out_tcValid_of_short hn, out_cjValid_of_short hn⟩⟩

/-- Settles O43: with the flag clear the row of FRAME.OK holds and STATUS is OK, and D2..D0 are not looked at. -/
theorem faultBitsWithoutTheFlagAreAReading : Obligations.FaultBitsWithoutTheFlagAreAReading := by
  refine ⟨fun s h4 h16 => ?_, by decide, by decide, by decide, by decide⟩
  have hclass : decode (.frame s.frame) = .frameOk s.frame :=
    (decode_encode_iff_wf (.frameOk s.frame)).2 (by rw [wf_frameOk, h16, Bool.not_false])
  have hok : s.out.status = .ok := by
    rw [out_status_of_four h4, h16]
    rfl
  exact ⟨hclass, (Status.code_eq_ok_iff _).2 hok, (out_tcValid_iff s).2 hok, rfl⟩

end Sys2Proof.Proofs
end

section
/-!
PROOFS. The family of spec/43_host_interpretation.md: scaling, the units, and the read operations end to end. First the
layer later proofs can use: what READ samples, the state an acquisition leaves, the results by STATUS and by unit code,
and the two codes from the frame's bytes and as numbers.
-/

namespace Sys2Proof.Machine

/-! ## READ samples the ports -/

/-- A class whose FAULT_KIND is the mux's, and whose STATUS is the flag's, samples the ports, at any count. -/
theorem State.recordClass_eq_record_portsOf {f : FrameWord} {flag : Bool} (h16 : f.getLsbD 16 = flag) {k : FaultKind}
    (hk : faultKind (faultBits f) = k) (s : State) :
    s.recordClass f k (if flag then .fault else .ok) = s.record (portsOf f s.rxcnt) := by
  subst h16 hk
  rfl

theorem exec_decodeFrame (f : FrameWord) (s : State) :
    exec (decodeFrame f) s = .next (s.record (portsOf f s.rxcnt)) := by
  have sampled {flag k} (h16 : f.getLsbD 16 = flag) (hk : faultKind (faultBits f) = k) :=
    congrArg (Host.Outcome.next (φ := Fault) (ρ := Refusal)) (State.recordClass_eq_record_portsOf h16 hk s)
  rw [decodeFrame, ← faultBits_getLsbD f (i := 0) (by decide), ← faultBits_getLsbD f (i := 1) (by decide),
    ← faultBits_getLsbD f (i := 2) (by decide)]
  split
  · next h16 => exact sampled h16 rfl
  · next h16 h0 => exact sampled h16 (faultKind_bit0 h0)
  · next h16 h0 h1 => exact sampled h16 (faultKind_bit1 h0 h1)
  · next h16 h0 h1 h2 => exact sampled h16 (faultKind_bit2 h0 h1 h2)
  · next h16 h0 h1 h2 => exact sampled h16 (faultKind_none h0 h1 h2)

theorem runInputs_read (xs : List HostInput) (s : State) :
    runInputs (.read :: xs) s = runInputs xs (s.record s.out) := by
  apply runInputs_cons
  by_cases h4 : s.rxcnt = 4#3
  · exact (step_of_run (fetch_read_whole (s.issue_inputs (.read :: xs)) h4)).trans (exec_decodeFrame _ _)
  · exact step_of_done (fetch_read_short (s.issue_inputs (.read :: xs)) h4)

/-! ## What an acquisition leaves -/

/-- The block after START and one PUSH for each of `bytes` (R128, R133). -/
def State.acquire (s : State) (bytes : List Byte) : State := bytes.foldl State.acceptByte s.resetBlock

@[simp] theorem State.acquire_inputs (s : State) (bytes : List Byte) : (s.acquire bytes).inputs = s.inputs :=
  foldl_acceptByte_inputs bytes s.resetBlock

theorem State.acquire_four (s : State) (b0 b1 b2 b3 : Byte) :
    s.acquire [b0, b1, b2, b3] = s.capture (joinBytes b0 b1 b2 b3) 4#3 :=
  foldl_acceptByte_resetBlock b0 b1 b2 b3 s

theorem State.toNat_acquire_rxcnt (s : State) {bytes : List Byte} (h : bytes.length ≤ 4) :
    (s.acquire bytes).rxcnt.toNat = bytes.length := by
  obtain ⟨hcount, _⟩ :=
    foldl_acceptByte_registers bytes (s := s.resetBlock) legalCapture_zero ((Nat.zero_add _).trans_le h)
  exact hcount.trans (Nat.zero_add _)

theorem runInputs_acquireInputs (bytes : List Byte) (s : State) :
    runInputs (acquireInputs bytes) s = .next ((s.acquire bytes).record (s.acquire bytes).out) := by
  have hpushes : (bytes.map fun b => HostInput.command (pushWord b)) = (bytes.map some).map captureInput := by
    rw [List.map_map]
    rfl
  have hbytes : (bytes.map some).filterMap id = bytes := by simp
  rw [acquireInputs, List.cons_append, runInputs_start, hpushes, runInputs_captureInputs, hbytes]
  exact runInputs_read [] (s.acquire bytes)

/-! ## The read operations -/

theorem readWith_eq (result : Ports → ReadResult) (bytes : List Byte) (s : State) :
    readWith result bytes s = some (result (s.acquire bytes).out, (s.acquire bytes).record (s.acquire bytes).out) :=
  readWith_of_run (runInputs_acquireInputs bytes s) rfl

/-- Four bytes, from any state: the result is of their frame, complete, and the block is left with it. -/
theorem readWith_four (result : Ports → ReadResult) (b0 b1 b2 b3 : Byte) (s : State) :
    ∃ t, readWith result [b0, b1, b2, b3] s = some (result (portsOf (joinBytes b0 b1 b2 b3) 4#3), t) ∧
      t.frame = joinBytes b0 b1 b2 b3 ∧ t.rxcnt = 4#3 ∧ t.inputs = s.inputs := by
  refine ⟨(s.capture (joinBytes b0 b1 b2 b3) 4#3).record (portsOf (joinBytes b0 b1 b2 b3) 4#3), ?_, rfl, rfl, rfl⟩
  rw [readWith_eq, State.acquire_four, State.out_capture]

/-- Fewer than four bytes: the result is the one for STATUS = MALFORMED (90_conflicts.md C3). -/
theorem readWith_short {result : Ports → ReadResult} {r : ReadResult}
    (hresult : ∀ {p : Ports}, p.status = .malformed → result p = r) {bytes : List Byte} (hlen : bytes.length < 4)
    (s : State) :
    ∃ t, readWith result bytes s = some (r, t) ∧ t.rxcnt.toNat = bytes.length ∧ t.inputs = s.inputs := by
  have hcount : (s.acquire bytes).rxcnt.toNat = bytes.length := s.toNat_acquire_rxcnt hlen.le
  have hshort : (s.acquire bytes).rxcnt < 4#3 := show (s.acquire bytes).rxcnt.toNat < 4 from hcount.trans_lt hlen
  refine ⟨(s.acquire bytes).record (s.acquire bytes).out, ?_, hcount, s.acquire_inputs bytes⟩
  rw [readWith_eq, hresult (out_status_of_short hshort)]

/-! ## The results of a complete frame -/

theorem temperatureResult_portsOf_four (u : Nat) (f : FrameWord) :
    temperatureResult u (portsOf f 4#3) =
      if f.getLsbD 16 then .err (.sensor (faultKind (faultBits f)))
      else .ok (convert (.ofCode u) (tcCelsius (tcCode f))) := by
  have hstatus : (portsOf f 4#3).status = if f.getLsbD 16 then .fault else .ok := rfl
  split
  · next h16 => exact temperatureResult_fault u (hstatus.trans (if_pos h16))
  · next h16 => exact temperatureResult_ok u (hstatus.trans (if_neg h16))

theorem coldJunctionResult_portsOf_four (f : FrameWord) :
    coldJunctionResult (portsOf f 4#3) = .ok (cjCelsius (cjCode f)) := by
  apply coldJunctionResult_whole
  rw [portsOf_status, statusOf_four]
  split <;> decide

/-! ## The codes and the fault kind from the frame's bytes (R54) -/

theorem tcFromBytes_eq_setWidth_tcRaw (b0 b1 b2 b3 : Byte) :
    tcFromBytes b0 b1 = (tcRaw (joinBytes b0 b1 b2 b3)).setWidth 16 := by
  obtain ⟨htc, -⟩ := Proofs.byteFormulasSelectTheFields b0 b1 b2 b3
  exact BitVec.eq_of_toNat_eq (htc.trans (BitVec.toNat_setWidth_of_le (by decide)).symm)

theorem cjFromBytes_eq_setWidth_cjRaw (b0 b1 b2 b3 : Byte) :
    cjFromBytes b2 b3 = (cjRaw (joinBytes b0 b1 b2 b3)).setWidth 16 := by
  obtain ⟨-, -, hcj, -⟩ := Proofs.byteFormulasSelectTheFields b0 b1 b2 b3
  exact BitVec.eq_of_toNat_eq (hcj.trans (BitVec.toNat_setWidth_of_le (by decide)).symm)

theorem tcCelsius_tcCode_joinBytes (b0 b1 b2 b3 : Byte) :
    tcCelsius (tcCode (joinBytes b0 b1 b2 b3)) = (tcByMagnitude (tcFromBytes b0 b1) : Rat) / 4 := by
  rw [tcCelsius, toInt_tcCode, tcFromBytes_eq_setWidth_tcRaw b0 b1 b2 b3, tcByMagnitude_setWidth]

theorem cjCelsius_cjCode_joinBytes (b0 b1 b2 b3 : Byte) :
    cjCelsius (cjCode (joinBytes b0 b1 b2 b3)) = (cjByMagnitude (cjFromBytes b2 b3) : Rat) / 16 := by
  rw [cjCelsius, toInt_cjCode, cjFromBytes_eq_setWidth_cjRaw b0 b1 b2 b3, cjByMagnitude_setWidth]

theorem faultKind_faultBits_joinBytes (b0 b1 b2 b3 : Byte) :
    faultKind (faultBits (joinBytes b0 b1 b2 b3)) =
      if b3.getLsbD 0 then .openCircuit else if b3.getLsbD 1 then .shortToGround
      else if b3.getLsbD 2 then .shortToSupply else .unknown := by
  have hbit : ∀ {i : Nat}, i < 3 → (faultBits (joinBytes b0 b1 b2 b3)).getLsbD i = b3.getLsbD i := fun {i} hi =>
    (faultBits_getLsbD _ hi).trans ((getLsbD_joinBytes b0 b1 b2 b3 i).trans (if_pos (by omega)))
  rw [faultKind, hbit (by decide), hbit (by decide), hbit (by decide)]

/-! ## The codes as numbers -/

theorem toInt_tcCode_bounds (f : FrameWord) : -8192 ≤ (tcCode f).toInt ∧ (tcCode f).toInt ≤ 8191 := by
  obtain ⟨-, hlo, hhi, -⟩ := Proofs.thermocoupleCodeIsSignExtended f 0#3
  exact ⟨hlo, hhi⟩

theorem toInt_cjCode_bounds (f : FrameWord) : -2048 ≤ (cjCode f).toInt ∧ (cjCode f).toInt ≤ 2047 := by
  obtain ⟨-, hlo, hhi, -⟩ := Proofs.coldJunctionCodeIsSignExtended f 0#3
  exact ⟨hlo, hhi⟩

/-- R121: a significand of 14 bits, the binary point after the twelfth. -/
theorem tcCelsius_tcCode_eq_significand (f : FrameWord) :
    ∃ m e : Int, m.natAbs < 2 ^ 14 ∧ tcCelsius (tcCode f) = (m : Rat) * 2 ^ e := by
  obtain ⟨hlo, hhi⟩ := toInt_tcCode_bounds f
  refine ⟨(tcCode f).toInt, -2, by omega, ?_⟩
  rw [tcCelsius, div_eq_mul_inv]
  norm_num

theorem fitsSignificand_of_le {p w : Nat} (hpw : p ≤ w) {q : Rat} (h : fitsSignificand p q = true) :
    fitsSignificand w q = true := by
  rw [fitsSignificand_iff] at h ⊢
  obtain ⟨m, e, hm, hq⟩ := h
  exact ⟨m, e, hm.trans_le (Nat.pow_le_pow_right (by decide) hpw), hq⟩

/-! ## The results by the unit code -/

theorem ofCode_of_three_lt {k : Nat} (hk : 3 < k) : TemperatureUnit.ofCode k = .celsius := by
  obtain ⟨j, rfl⟩ := Nat.exists_eq_add_of_le' hk
  exact ofCode_unrecognised j

theorem temperatureResult_congr {u v : Nat} (h : TemperatureUnit.ofCode u = .ofCode v) :
    temperatureResult u = temperatureResult v := by
  funext p
  rw [temperatureResult, temperatureResult, h]

theorem temperatureFloatIn_congr {u v : Nat} (h : TemperatureUnit.ofCode u = .ofCode v) (sig : Option Nat) :
    temperatureFloatIn sig u = temperatureFloatIn sig v := by
  funext p
  rw [temperatureFloatIn, temperatureFloatIn, h]

/-- Without a reading there is one error, whatever the unit and the format. -/
theorem exists_error_of_status_ne_ok {p : Ports} (h : p.status ≠ .ok) :
    ∃ e, ∀ u sig, temperatureResult u p = .err e ∧ temperatureFloatIn sig u p = .err e := by
  cases hst : p.status with
  | ok => exact absurd hst h
  | fault => exact ⟨_, fun u sig => ⟨temperatureResult_fault u hst, temperatureFloatIn_fault sig u hst⟩⟩
  | malformed => exact ⟨_, fun u sig => ⟨temperatureResult_malformed u hst, temperatureFloatIn_malformed sig u hst⟩⟩

theorem temperatureResult_of_celsius_ok {p : Ports} {c : Rat} (h : temperatureResult 0 p = .ok c) (u : Nat) :
    temperatureResult u p = .ok (convert (.ofCode u) c) := by
  by_cases hst : p.status = .ok
  · rw [temperatureResult_ok 0 hst] at h
    cases h
    exact temperatureResult_ok u hst
  · obtain ⟨e, he⟩ := exists_error_of_status_ne_ok hst
    cases (he 0 none).1.symm.trans h

theorem temperatureResult_of_celsius_err {p : Ports} {e : ReadError} (h : temperatureResult 0 p = .err e) (u : Nat) :
    temperatureResult u p = .err e := by
  by_cases hst : p.status = .ok
  · cases (temperatureResult_ok 0 hst).symm.trans h
  · obtain ⟨e', he⟩ := exists_error_of_status_ne_ok hst
    exact (he u none).1.trans ((he 0 none).1.symm.trans h)

/-- Two read operations on the same bytes sample the same ports and leave the same state. -/
theorem readWith_of_readWith {result result' : Ports → ReadResult} {r r' : ReadResult} {bytes : List Byte}
    {s t : State} (h : readWith result bytes s = some (r, t)) (hresult : ∀ p, result p = r → result' p = r') :
    readWith result' bytes s = some (r', t) := by
  rw [readWith_eq] at h
  cases h
  rw [readWith_eq, hresult _ rfl]

end Sys2Proof.Machine

namespace Sys2Proof.Proofs

open Machine

/-- Settles O51: the codes are 14 and 12 bits wide, and scaling is division by 4 and by 16. -/
theorem temperaturesAreScaledCodes : Obligations.TemperaturesAreScaledCodes := by
  intro f n tc cj
  have htc : tc = ((tcCode f).toInt : Rat) / 4 := rfl
  have hcj : cj = ((cjCode f).toInt : Rat) / 16 := rfl
  have htcRange : (-8192 : Rat) ≤ (tcCode f).toInt ∧ ((tcCode f).toInt : Rat) ≤ 8191 := by
    exact_mod_cast toInt_tcCode_bounds f
  have hcjRange : (-2048 : Rat) ≤ (cjCode f).toInt ∧ ((cjCode f).toInt : Rat) ≤ 2047 := by
    exact_mod_cast toInt_cjCode_bounds f
  obtain ⟨htcLo, htcHi⟩ := htcRange
  obtain ⟨hcjLo, hcjHi⟩ := hcjRange
  rw [portsOf_tcCode, portsOf_cjCode, htc, hcj]
  refine ⟨?_, ?_, ?_, ?_, ?_, ?_⟩ <;> linarith

/-- Settles O53: the result is of the four bytes' frame, whose flag, fault bits and code are read off the bytes. -/
theorem readTemperatureIsTheSourceAlgorithm : Obligations.ReadTemperatureIsTheSourceAlgorithm := by
  intro u s
  refine ⟨fun b0 b1 b2 b3 => ?_, fun bs hlen => readWith_short (temperatureResult_malformed u) hlen s⟩
  have hflag : (joinBytes b0 b1 b2 b3).getLsbD 16 = b1.getLsbD 0 := getLsbD_joinBytes b0 b1 b2 b3 16
  obtain ⟨t, hread, hregs⟩ := readWith_four (temperatureResult u) b0 b1 b2 b3 s
  rw [temperatureResult_portsOf_four, hflag, faultKind_faultBits_joinBytes, tcCelsius_tcCode_joinBytes] at hread
  exact ⟨t, hread, hregs⟩

/-- Settles O54: of a complete frame the host looks at CJ_CODE alone. -/
theorem coldJunctionReadIgnoresTheFlag : Obligations.ColdJunctionReadIgnoresTheFlag := by
  intro s
  refine ⟨fun b0 b1 b2 b3 => ?_, fun bs hlen => ?_⟩
  · obtain ⟨t, hread, hregs⟩ := readWith_four coldJunctionResult b0 b1 b2 b3 s
    rw [coldJunctionResult_portsOf_four, cjCelsius_cjCode_joinBytes] at hread
    exact ⟨t, hread, hregs⟩
  · obtain ⟨t, hread, -, hinputs⟩ := readWith_short coldJunctionResult_malformed hlen s
    exact ⟨t, hread, hinputs⟩

/-- Settles O58: TC_VALID is STATUS = OK, and the code is the 14-bit significand. -/
theorem binaryFormatsHoldTheReading : Obligations.BinaryFormatsHoldTheReading := by
  intro f n p
  refine ⟨fun hvalid => ?_, fun hinvalid => exists_error_of_status_ne_ok (of_decide_eq_false hinvalid)⟩
  have hstatus : p.status = .ok := of_decide_eq_true hvalid
  refine ⟨⟨(tcCode f).toInt, ?_⟩, tcCelsius_tcCode_eq_significand f, fun w hw => ?_⟩
  · rw [portsOf_tcCode, tcCelsius]
    norm_num
  · have hfits : fitsSignificand w (tcCelsius p.tcCode) = true :=
      fitsSignificand_of_le hw ((fitsSignificand_iff 14 _).2 (tcCelsius_tcCode_eq_significand f))
    rw [temperatureFloatIn_ok (some w) 0 hstatus, ofCode_zero, convertIn_celsius, heldIn_of_fits hfits]

/-- Settles O52: the conversions case by case; Rankine's second form adds 459.67 = 273.15 * 9/5 - 32. -/
theorem unitConversions : Obligations.UnitConversions := by
  intro c
  refine ⟨rfl, rfl, rfl, ?_, rfl, fun k hk => ?_⟩
  · rw [ofCode_three, ofCode_one, convert_rankine, convert_fahrenheit]
    ring
  · rw [ofCode_of_three_lt hk, convert_celsius]

/-- Settles O56: at every unit the read samples the same ports, and the result is Celsius's, converted. -/
theorem wrappersFixTheUnit : Obligations.WrappersFixTheUnit := by
  intro bs s t
  have hok : ∀ {c : Rat} (u : Nat), readTemperature 0 bs s = some (.ok c, t) →
      readTemperature u bs s = some (.ok (convert (.ofCode u) c), t) :=
    fun u h => readWith_of_readWith h fun _ hp => temperatureResult_of_celsius_ok hp u
  have herr : ∀ {e : ReadError} (u : Nat), readTemperature 0 bs s = some (.err e, t) →
      readTemperature u bs s = some (.err e, t) :=
    fun u h => readWith_of_readWith h fun _ hp => temperatureResult_of_celsius_err hp u
  exact ⟨⟨rfl, rfl, rfl⟩, fun c h => ⟨hok 1 h, hok 2 h, hok 3 h⟩, fun e h => ⟨herr 1 h, herr 2 h, herr 3 h⟩⟩

/-- Settles O59: the code is read as Celsius, as code 0 is. -/
theorem unrecognisedUnitsFallBackToCelsius : Obligations.UnrecognisedUnitsFallBackToCelsius := by
  intro k hk
  have hcode : TemperatureUnit.ofCode k = .ofCode 0 := ofCode_of_three_lt hk
  have hresult : temperatureResult k = temperatureResult 0 := temperatureResult_congr hcode
  have hfloat : ∀ sig, temperatureFloatIn sig k = temperatureFloatIn sig 0 := temperatureFloatIn_congr hcode
  refine ⟨fun c => ?_, fun p => ?_, fun bs s => ?_⟩
  · rw [hcode]
    exact ⟨rfl, rfl, fun _ => ⟨rfl, rfl⟩⟩
  · exact ⟨congrFun hresult p, congrFun (hfloat _) p, fun sig => congrFun (hfloat sig) p⟩
  · rw [readTemperature, hresult]
    rfl

end Sys2Proof.Proofs
end

section
/-!
PROOFS. The family of spec/60_exceptions.md: the catalogue of reported conditions, that no condition outlives its frame,
and instances. First the layer later proofs can use: that every step answers, a run as one function of its inputs, what
two blocks with the same registers have in common, and the status codes of a legal count by their causes.
-/

namespace Sys2Proof.Machine

/-! ## Every step answers -/

theorem exec_answers (i : Instr) (s : State) : ∃ t, exec i s = .next t := by
  obtain ⟨f, n, h⟩ | ⟨p, h⟩ := exec_cases i s
  · exact ⟨_, h⟩
  · exact ⟨_, h⟩

theorem step_answers (s : State) : ∃ t, step s = .next t := by
  cases h : fetch s with
  | run i t =>
    rw [step_of_run h]
    exact exec_answers i t
  | done t => exact ⟨t, step_of_done h⟩

/-! ## Instances -/

theorem stepInstance_of_next {k : Nat} {blocks : List State} {s t : State} (hk : blocks[k]? = some s)
    (h : step s = .next t) : stepInstance k blocks = some (blocks.set k t) := by
  rw [stepInstance, hk]
  simp only [h]

/-- The second step finds its own block where it was: the first moved another. -/
theorem stepInstance_bind_of_ne {j k : Nat} (hjk : j ≠ k) {blocks : List State} {r u s t : State}
    (hj : blocks[j]? = some r) (hu : step r = .next u) (hk : blocks[k]? = some s) (ht : step s = .next t) :
    ((stepInstance j blocks).bind fun a => stepInstance k a) = some ((blocks.set j u).set k t) := by
  rw [stepInstance_of_next hj hu, Option.bind_some]
  exact stepInstance_of_next ((List.getElem?_set_ne hjk).trans hk) ht

/-! ## A run as one function of its inputs -/

/-- The state after the next input `x`; a command word decodes to one of the four commands only (R51). -/
def State.afterInput (s : State) : HostInput → State
  | .command w =>
    match decodeCommand w with
    | .start => s.resetBlock
    | .push b => s.acceptByte b
    | .load f => s.capture f 4#3
    | _ => s
  | .reset _ => s.resetBlock
  | .read => s.record s.out

theorem State.afterInput_nop {w : CommandWord} (h : decodeCommand w = .nop) (s : State) :
    s.afterInput (.command w) = s := by
  rw [State.afterInput, h]

theorem State.afterInput_start {w : CommandWord} (h : decodeCommand w = .start) (s : State) :
    s.afterInput (.command w) = s.resetBlock := by
  rw [State.afterInput, h]

theorem State.afterInput_push {w : CommandWord} {b : Byte} (h : decodeCommand w = .push b) (s : State) :
    s.afterInput (.command w) = s.acceptByte b := by
  rw [State.afterInput, h]

theorem State.afterInput_load {w : CommandWord} {f : FrameWord} (h : decodeCommand w = .load f) (s : State) :
    s.afterInput (.command w) = s.capture f 4#3 := by
  rw [State.afterInput, h]

theorem exec_decodeCommand (w : CommandWord) (s : State) :
    exec (decodeCommand w) s = .next (s.afterInput (.command w)) := by
  obtain h | h | h | ⟨h, -⟩ := decodeCommand_cases w
  · rw [s.afterInput_nop h, h]
    rfl
  · rw [s.afterInput_start h, h]
    rfl
  · rw [s.afterInput_push h, h]
    rfl
  · rw [s.afterInput_load h, h]
    rfl

@[simp] theorem State.afterInput_inputs (s : State) (x : HostInput) : (s.afterInput x).inputs = s.inputs := by
  cases x with
  | command w =>
    obtain h | h | h | ⟨h, -⟩ := decodeCommand_cases w
    · rw [s.afterInput_nop h]
    · rw [s.afterInput_start h, State.resetBlock_inputs]
    · rw [s.afterInput_push h, State.acceptByte_inputs]
    · rw [s.afterInput_load h, State.capture_inputs]
  | reset c => rfl
  | read => rfl

/-- READ alone samples. -/
theorem State.afterInput_sampled (s : State) (x : HostInput) :
    (s.afterInput x).sampled = if x = .read then some s.out else s.sampled := by
  cases x with
  | command w =>
    rw [if_neg nofun]
    obtain h | h | h | ⟨h, -⟩ := decodeCommand_cases w
    · rw [s.afterInput_nop h]
    · rw [s.afterInput_start h, State.resetBlock_sampled]
    · rw [s.afterInput_push h, State.acceptByte_sampled]
    · rw [s.afterInput_load h, State.capture_sampled]
  | reset c => rfl
  | read => rfl

theorem runInputs_eq_foldl (xs : List HostInput) (s : State) :
    runInputs xs s = .next (xs.foldl State.afterInput s) := by
  induction xs generalizing s with
  | nil => rfl
  | cons x xs ih =>
    have hx : runInputs (x :: xs) s = runInputs xs (s.afterInput x) := by
      cases x with
      | command w => exact runInputs_command (exec_decodeCommand w s) (s.afterInput_inputs _) xs
      | reset c => exact runInputs_reset c xs s
      | read => exact runInputs_read xs s
    rw [hx, ih, List.foldl_cons]

/-! ## Two blocks with the same registers -/

/-- The block's two registers agree (R20); what the two hosts have issued and sampled need not. -/
def SameRegisters (s t : State) : Prop := s.frame = t.frame ∧ s.rxcnt = t.rxcnt

theorem SameRegisters.out_eq {s t : State} (h : SameRegisters s t) : s.out = t.out := by
  obtain ⟨hf, hn⟩ := h
  rw [State.out, hf, hn, State.out]

theorem SameRegisters.acceptByte {s t : State} (h : SameRegisters s t) (b : Byte) :
    SameRegisters (s.acceptByte b) (t.acceptByte b) := by
  obtain ⟨hf, hn⟩ := h
  by_cases hs : s.rxcnt < 4#3
  · rw [s.acceptByte_of_lt b hs, t.acceptByte_of_lt b (hn ▸ hs), hf, hn]
    exact ⟨rfl, rfl⟩
  · rw [s.acceptByte_of_not_lt b hs, t.acceptByte_of_not_lt b (hn ▸ hs)]
    exact ⟨hf, hn⟩

theorem SameRegisters.afterInput {s t : State} (h : SameRegisters s t) (x : HostInput) :
    SameRegisters (s.afterInput x) (t.afterInput x) := by
  cases x with
  | command w =>
    obtain hw | hw | hw | ⟨hw, -⟩ := decodeCommand_cases w
    · rwa [s.afterInput_nop hw, t.afterInput_nop hw]
    · rw [s.afterInput_start hw, t.afterInput_start hw]
      exact ⟨rfl, rfl⟩
    · rw [s.afterInput_push hw, t.afterInput_push hw]
      exact h.acceptByte _
    · rw [s.afterInput_load hw, t.afterInput_load hw]
      exact ⟨rfl, rfl⟩
  | reset c => exact ⟨rfl, rfl⟩
  | read => exact h

theorem SameRegisters.foldl_afterInput {s t : State} (h : SameRegisters s t) (xs : List HostInput) :
    SameRegisters (xs.foldl State.afterInput s) (xs.foldl State.afterInput t) := by
  induction xs generalizing s t with
  | nil => exact h
  | cons x xs ih => exact ih (h.afterInput x)

/-- From the same registers, a READ on the way makes the samples agree, and samples that agree stay so. -/
theorem SameRegisters.foldl_afterInput_sampled {s t : State} (h : SameRegisters s t) {xs : List HostInput}
    (hsample : .read ∈ xs ∨ s.sampled = t.sampled) :
    (xs.foldl State.afterInput s).sampled = (xs.foldl State.afterInput t).sampled := by
  induction xs generalizing s t with
  | nil => exact hsample.resolve_left List.not_mem_nil
  | cons x xs ih =>
    refine ih (h.afterInput x) ?_
    rw [s.afterInput_sampled, t.afterInput_sampled, h.out_eq]
    by_cases hx : x = .read
    · exact .inr ((if_pos hx).trans (if_pos hx).symm)
    · rw [if_neg hx, if_neg hx]
      exact hsample.imp_left fun hmem => (List.mem_cons.1 hmem).resolve_left (Ne.symm hx)

/-- START, LOAD and RESET replace both registers, whatever they held (R145). -/
theorem sameRegisters_afterInput_frameStart {first : HostInput}
    (hfirst : (∃ w, first = .command w ∧ (decode (.command w) = .start ∨ ∃ f, decode (.command w) = .load f)) ∨
      ∃ c, first = .reset c) (s t : State) :
    SameRegisters (s.afterInput first) (t.afterInput first) := by
  obtain ⟨w, rfl, hw | ⟨f, hw⟩⟩ | ⟨c, rfl⟩ := hfirst
  · rw [s.afterInput_start hw, t.afterInput_start hw]
    exact ⟨rfl, rfl⟩
  · rw [s.afterInput_load hw, t.afterInput_load hw]
    exact ⟨rfl, rfl⟩
  · exact ⟨rfl, rfl⟩

/-! ## The reported codes of a legal count, by their causes -/

theorem count_lt_four_or_eq {n : ByteCount} (h : n.toNat ≤ 4) : n < 4#3 ∨ n = 4#3 :=
  (Nat.lt_or_eq_of_le h).imp id BitVec.eq_of_toNat_eq

/-- The counts above 4, which this leaves out, are no short frame either, and go by the flag too (log entry 7). -/
theorem out_status_eq_by_flag_iff {s : State} (h : s.rxcnt.toNat ≤ 4) (flag : Bool) :
    s.out.status = (if flag then .fault else .ok) ↔ s.rxcnt = 4#3 ∧ s.frame.getLsbD 16 = flag := by
  obtain hshort | h4 := count_lt_four_or_eq h
  · rw [out_status_of_short hshort]
    cases flag <;> simp [BitVec.ne_of_lt hshort]
  · rw [out_status_of_four h4]
    cases flag <;> simp [h4]

theorem Status.code_eq_fault_iff (st : Status) : st.code = 0b01#2 ↔ st = .fault := by
  cases st <;> decide

theorem FaultKind.code_injective : Function.Injective FaultKind.code := by
  intro a b
  cases a <;> cases b <;> decide

/-- D1..D0 as FAULT_BITS have them. -/
theorem extractLsb'_faultBits_low (f : FrameWord) : (faultBits f).extractLsb' 0 2 = f.extractLsb' 0 2 := by
  apply BitVec.eq_of_getLsbD_eq
  intro i hi
  rw [BitVec.getLsbD_extractLsb', BitVec.getLsbD_extractLsb', Nat.zero_add, faultBits_getLsbD f (by omega)]

/-- A sensor fault is reported exactly for a complete frame with D16 = 1, and its kind is the classifier's. -/
theorem fault_reported_iff {s : State} (h : s.rxcnt.toNat ≤ 4) (k : FaultKind) :
    (s.out.status.code = 0b01#2 ∧ s.out.faultKind.code = k.code) ↔
      s.rxcnt = 4#3 ∧ s.frame.getLsbD 16 = true ∧ faultKind (faultBits s.frame) = k := by
  have hstatus : s.out.status.code = 0b01#2 ↔ s.rxcnt = 4#3 ∧ s.frame.getLsbD 16 = true :=
    (Status.code_eq_fault_iff _).trans (out_status_eq_by_flag_iff h true)
  have hkind : s.out.faultKind.code = k.code ↔ faultKind (faultBits s.frame) = k := FaultKind.code_injective.eq_iff
  rw [hstatus, hkind, and_assoc]

end Sys2Proof.Machine

namespace Sys2Proof.Proofs

open Machine

/-- Settles O10: every step answers, and it sets its own place only. -/
theorem instancesAreIndependent : Obligations.InstancesAreIndependent := by
  intro j k blocks s hk
  obtain ⟨t, ht⟩ := step_answers s
  have hlt : k < blocks.length := (List.getElem?_eq_some_iff.1 hk).1
  refine ⟨⟨t, blocks.set k t, ht, stepInstance_of_next hk ht, List.getElem?_set_self hlt,
    fun i hi => List.getElem?_set_ne hi.symm⟩, fun hjk r hj => ?_⟩
  obtain ⟨u, hu⟩ := step_answers r
  rw [stepInstance_bind_of_ne hjk hj hu hk ht, stepInstance_bind_of_ne hjk.symm hk ht hj hu, List.set_comm u t hjk]

/-- Settles O31: the first input makes the registers agree, and every later one keeps them so. -/
theorem nothingIsCarriedOverAFrameStart : Obligations.NothingIsCarriedOverAFrameStart := by
  intro first xs s t hfirst
  have hsame := sameRegisters_afterInput_frameStart hfirst s t
  exact ⟨_, _, runInputs_eq_foldl _ s, runInputs_eq_foldl _ t, (hsame.foldl_afterInput xs).out_eq,
    fun hread => hsame.foldl_afterInput_sampled (.inl hread)⟩

/-- Settles O42: STATUS by count and flag, FAULT_KIND by D2..D0, where R141's patterns are the classifier's. -/
theorem catalogueOfConditions : Obligations.CatalogueOfConditions := by
  intro s hn
  have hground : ∀ bits : BitVec 3, faultKind bits = .shortToGround ↔ bits.extractLsb' 0 2 = 0b10#2 := by decide
  have hsupply : ∀ bits : BitVec 3, faultKind bits = .shortToSupply ↔ bits = 0b100#3 := by decide
  have hunknown : ∀ bits : BitVec 3, faultKind bits = .unknown ↔ bits = 0b000#3 := by decide
  refine ⟨(Status.code_eq_malformed_iff _).trans (out_status_eq_malformed_iff s), ?_, ?_, ?_, ?_,
    (Status.code_eq_ok_iff _).trans (out_status_eq_by_flag_iff hn false), rfl, rfl⟩
  · rw [← faultBits_getLsbD s.frame (i := 0) (by decide), ← faultKind_eq_openCircuit_iff]
    exact fault_reported_iff hn .openCircuit
  · rw [← extractLsb'_faultBits_low, ← hground]
    exact fault_reported_iff hn .shortToGround
  · have h := fault_reported_iff hn .shortToSupply
    rwa [hsupply] at h
  · have h := fault_reported_iff hn .unknown
    rwa [hunknown] at h

end Sys2Proof.Proofs
end

section
/-!
PROOFS. The family of spec/70_reset_and_hazards.md: the ports after RESET, and a run of PUSHes with no START before it.
-/

namespace Sys2Proof.Machine

/-- The table of R160, port by port. -/
theorem State.resetBlock_out (s : State) :
    s.resetBlock.out =
      { tcCode := 0#16, faultFlag := false, cjCode := 0#16, faultBits := 0#3, faultKind := .unknown,
        status := .malformed, tcValid := false, cjValid := false, frameOut := 0#32, rxcntOut := 0#3 } :=
  show portsOf 0#32 0#3 = _ by decide

theorem runInputs_pushes (bytes : List Byte) (s : State) :
    runInputs (bytes.map fun b => .command (pushWord b)) s = .next (bytes.foldl State.acceptByte s) := by
  induction bytes generalizing s with
  | nil => rfl
  | cons b bytes ih => exact (runInputs_push b _ s).trans (ih (s.acceptByte b))

end Sys2Proof.Machine

namespace Sys2Proof.Proofs

open Machine

/-- Settles O5: the step resets the block without looking at the command, and the ports are those of zero registers. -/
theorem resetWinsAndClearsTheBlock : Obligations.ResetWinsAndClearsTheBlock := by
  intro s c rest h
  refine ⟨(s.withInputs rest).resetBlock, step_of_done (fetch_reset h), rfl, rfl, rfl, rfl, ?_⟩
  rw [State.resetBlock_out]
  exact ⟨rfl, rfl, rfl, rfl, rfl, rfl, rfl, rfl, rfl, rfl⟩

/-- Settles O29: START would change nothing in the reset state, so four bytes make a frame as they do after START. -/
theorem fourBytesAfterResetMakeAFrame : Obligations.FourBytesAfterResetMakeAFrame := by
  intro b0 b1 b2 b3
  have hreset : State.reset.resetBlock = State.reset := rfl
  have hframe := foldl_acceptByte_resetBlock b0 b1 b2 b3 State.reset
  rw [hreset] at hframe
  rw [runInputs_pushes, hframe]
  rfl

end Sys2Proof.Proofs
end

section
/-!
PROOFS. The claims that belong to no one part of the spec: steps and runs, words and lines of text, and what the host
samples. First the layer they share: a step as one function of the next input, and what that function keeps.
-/

namespace Sys2Proof

/-! ## Bytes that are no word -/

theorem ofBytes_of_length_ne {bs : List Byte} (h4 : bs.length ≠ 4) (h5 : bs.length ≠ 5) :
    Code.ofBytes bs = .error (if bs.length < 4 then .shortFrame bs.length else .tooLong bs.length) := by
  unfold Code.ofBytes
  split
  · exact absurd rfl h4
  · exact absurd rfl h5
  · rfl

theorem decodeBytes_of_error {bs : List Byte} {e : Reject} (h : Code.ofBytes bs = .error e) :
    decodeBytes bs = .error e := by
  rw [decodeBytes, h]

theorem decodeBytes_of_ok {bs : List Byte} {c : Code} (h : Code.ofBytes bs = .ok c) :
    decodeBytes bs = .ok (decode c) := by
  rw [decodeBytes, h]

/-- No bit above CMD is set iff the byte is a value of CMD. -/
theorem extractLsb'_top_eq_zero_iff (c : Byte) : c.extractLsb' 2 6 = 0 ↔ c.toNat < 4 := by
  have hc := c.isLt
  rw [← BitVec.toNat_inj, BitVec.extractLsb'_toNat, Nat.shiftRight_eq_div_pow]
  change c.toNat / 4 % 64 = 0 ↔ c.toNat < 4
  omega

namespace Machine

/-! ## A step as one function of the next input -/

@[simp] theorem State.afterInput_read (s : State) : s.afterInput .read = s.record s.out := rfl

theorem step_of_cons {s : State} {x : HostInput} {rest : List HostInput} (h : s.inputs = x :: rest) :
    step s = .next ((s.withInputs rest).afterInput x) := by
  cases x with
  | command w => exact (step_of_run (fetch_command h)).trans (exec_decodeCommand w _)
  | reset c => exact step_of_done (fetch_reset h)
  | read =>
    by_cases h4 : s.rxcnt = 4#3
    · exact (step_of_run (fetch_read_whole h h4)).trans (exec_decodeFrame _ _)
    · exact step_of_done (fetch_read_short h h4)

/-- What a step can do: stand still with nothing pending, or consume the next input and take its effect. -/
theorem step_cases {s t : State} (h : step s = .next t) :
    (s.inputs = [] ∧ t = s) ∨ ∃ x rest, s.inputs = x :: rest ∧ t = (s.withInputs rest).afterInput x := by
  cases hin : s.inputs with
  | nil => exact .inl ⟨rfl, Host.Outcome.next.inj (h.symm.trans (step_of_done (fetch_idle hin)))⟩
  | cons x rest => exact .inr ⟨x, rest, rfl, Host.Outcome.next.inj (h.symm.trans (step_of_cons hin))⟩

theorem step_inputs {s t : State} (h : step s = .next t) : t.inputs = s.inputs.tail := by
  obtain ⟨hin, rfl⟩ | ⟨x, rest, hin, rfl⟩ := step_cases h
  · rw [hin, List.tail_nil]
  · rw [State.afterInput_inputs, State.withInputs_inputs, hin, List.tail_cons]

/-- READ alone changes the sample, and what it samples are the ports of the legal state it reads. -/
theorem step_keeps_legalSample {s t : State} (hs : s.Inv) (h : step s = .next t) :
    ∀ p, t.sampled = some p → legalSample p := by
  obtain ⟨hcapture, hsample⟩ := hs
  obtain ⟨-, rfl⟩ | ⟨x, rest, -, rfl⟩ := step_cases h
  · exact hsample
  · intro p hp
    rw [State.afterInput_sampled] at hp
    split at hp
    · cases hp
      exact legalSample_out hcapture
    · exact hsample p hp

theorem foldl_afterInput_inputs (xs : List HostInput) (s : State) :
    (xs.foldl State.afterInput s).inputs = s.inputs := by
  induction xs generalizing s with
  | nil => rfl
  | cons x xs ih => exact (ih (s.afterInput x)).trans (s.afterInput_inputs x)

/-! ## A complete frame takes no byte -/

theorem State.acceptByte_of_four {s : State} (h4 : s.rxcnt = 4#3) (b : Byte) : s.acceptByte b = s :=
  s.acceptByte_of_not_lt b (h4 ▸ BitVec.lt_irrefl 4#3)

theorem State.acquire_take_four {bytes : List Byte} (h : 4 ≤ bytes.length) (s : State) :
    s.acquire (bytes.take 4) = s.acquire bytes := by
  have hlen : (bytes.take 4).length = 4 := List.length_take_of_le h
  have hcount : (s.acquire (bytes.take 4)).rxcnt = 4#3 :=
    BitVec.eq_of_toNat_eq ((s.toNat_acquire_rxcnt hlen.le).trans hlen)
  calc s.acquire (bytes.take 4)
      = (bytes.drop 4).foldl State.acceptByte (s.acquire (bytes.take 4)) :=
        (List.foldl_fixed' (State.acceptByte_of_four hcount) _).symm
    _ = s.acquire (bytes.take 4 ++ bytes.drop 4) := List.foldl_append.symm
    _ = s.acquire bytes := by rw [List.take_append_drop]

/-! ## Comments -/

theorem stripComment_append {line : List Char} (h : ';' ∉ line) (rest : List Char) :
    stripComment (line ++ rest) = line ++ stripComment rest := by
  induction line with
  | nil => rfl
  | cons c cs ih =>
    obtain ⟨hc, hcs⟩ := not_or.1 (mt List.mem_cons.2 h)
    rw [List.cons_append, stripComment, if_neg (Ne.symm hc), ih hcs, List.cons_append]

/-! ## A class on a short frame -/

/-- Whatever class result is given, STATUS is gated by the count, and both valid bits go by STATUS and the count. -/
theorem State.recordClass_of_short {s : State} (h : s.rxcnt < 4#3) (f : FrameWord) (k : FaultKind) (st : Status) :
    ∃ p, s.recordClass f k st = s.record p ∧ p.status = .malformed ∧ p.tcValid = false ∧ p.cjValid = false ∧
      p.frameOut = f ∧ p.rxcntOut = s.rxcnt := by
  have hstatus := gateStatus_short h st
  exact ⟨_, rfl, hstatus, congrArg tcValidOf hstatus, decide_eq_false (BitVec.ne_of_lt h), rfl, rfl⟩

/-! ## The cold junction in the host's format -/

theorem coldJunctionFloatIn_malformed {p : Ports} (sig : Option Nat) (h : p.status = .malformed) :
    coldJunctionFloatIn sig p = .err .malformedFrame := by
  rw [coldJunctionFloatIn, h]

theorem coldJunctionFloatIn_whole {p : Ports} (sig : Option Nat) (h : p.status ≠ .malformed) :
    coldJunctionFloatIn sig p = .ok (heldIn sig (cjCelsius p.cjCode)) := by
  unfold coldJunctionFloatIn
  split
  · next hst => exact absurd hst h
  · rfl
  · rfl

/-! ## What STATUS lets the host look at -/

section
variable {p q : Ports} (hstatus : p.status = q.status)
include hstatus

/-- A result that looks at TC_CODE where STATUS is OK and at FAULT_KIND where it is FAULT, as R128's does. -/
theorem result_eq_of_tcCode_faultKind {result : Ports → ReadResult} {malformed : ReadResult}
    (onFault : FaultKind → ReadResult) (onOk : CodeWord → ReadResult)
    (hmalformed : ∀ {r : Ports}, r.status = .malformed → result r = malformed)
    (hfault : ∀ {r : Ports}, r.status = .fault → result r = onFault r.faultKind)
    (hok : ∀ {r : Ports}, r.status = .ok → result r = onOk r.tcCode)
    (htc : p.status = .ok → p.tcCode = q.tcCode) (hkind : p.status = .fault → p.faultKind = q.faultKind) :
    result p = result q := by
  cases hp : p.status with
  | malformed => rw [hmalformed hp, hmalformed (hstatus ▸ hp)]
  | fault => rw [hfault hp, hfault (hstatus ▸ hp), hkind hp]
  | ok => rw [hok hp, hok (hstatus ▸ hp), htc hp]

/-- A result that looks at CJ_CODE unless STATUS is MALFORMED, as R129's does. -/
theorem result_eq_of_cjCode {result : Ports → ReadResult} {malformed : ReadResult} (onWhole : CodeWord → ReadResult)
    (hmalformed : ∀ {r : Ports}, r.status = .malformed → result r = malformed)
    (hwhole : ∀ {r : Ports}, r.status ≠ .malformed → result r = onWhole r.cjCode)
    (hcj : p.status ≠ .malformed → p.cjCode = q.cjCode) : result p = result q := by
  by_cases hp : p.status = .malformed
  · rw [hmalformed hp, hmalformed (hstatus ▸ hp)]
  · rw [hwhole hp, hwhole (hstatus ▸ hp), hcj hp]

end

end Machine

end Sys2Proof

namespace Sys2Proof.Proofs

open Machine

/-- Settles O9: the captures keep the registers legal, and a READ samples the ports of a legal state. -/
theorem everyStepKeepsTheInvariant : Obligations.EveryStepKeepsTheInvariant := by
  intro s t hs h
  obtain ⟨u, hu, hcapture⟩ := step_keeps_legalCapture hs.1
  cases hu.symm.trans h
  exact ⟨hcapture, step_keeps_legalSample hs h⟩

/-- Settles O18: a well-formed instruction is the one its own word stands for, and that word is read from its bytes. -/
theorem decodeOfEncodeIsTheInstruction : Obligations.DecodeOfEncodeIsTheInstruction :=
  fun _ => decodeBytes_encodeBytes

/-- Settles O3: exec and fetch both answer, and fetch drops the head of the queue. -/
theorem everyStepAnswersAndConsumesOneInput : Obligations.EveryStepAnswersAndConsumesOneInput := by
  intro s
  obtain ⟨t, ht⟩ := step_answers s
  exact ⟨t, ht, step_inputs ht⟩

/-- Settles O4: a run is a fold over its inputs, and a fold over `xs ++ ys` is one over `xs` and then `ys`. -/
theorem runsComposeInOrder : Obligations.RunsComposeInOrder := by
  intro xs ys s
  refine ⟨xs.foldl State.afterInput s, ys.foldl State.afterInput (xs.foldl State.afterInput s), runInputs_eq_foldl _ _,
    runInputs_eq_foldl _ _, ?_, foldl_afterInput_inputs _ _, ?_⟩
  · rw [runInputs_eq_foldl, List.foldl_append]
  · rw [foldl_afterInput_inputs, foldl_afterInput_inputs]

/-- Settles O7: of the inputs, NOP and READ leave both registers, and so does a step with none. -/
theorem onlyCaptureAndResetWriteTheRegisters : Obligations.OnlyCaptureAndResetWriteTheRegisters := by
  intro s t h hchanged
  obtain ⟨-, rfl⟩ | ⟨x, rest, hin, rfl⟩ := step_cases h
  · simp at hchanged
  · cases x with
    | command w =>
      refine .inr ⟨w, rest, hin, ?_⟩
      obtain hw | hw | hw | ⟨hw, -⟩ := decodeCommand_cases w
      · rw [State.afterInput_nop hw] at hchanged
        simp at hchanged
      · exact .inl hw
      · exact .inr (.inl ⟨_, hw⟩)
      · exact .inr (.inr ⟨_, hw⟩)
    | reset c => exact .inl ⟨c, rest, hin⟩
    | read => simp at hchanged

/-- Settles O13: the two words decode alike, by CMD and, for PUSH, by DIN[7:0]. -/
theorem unusedDinBitsChangeNothing : Obligations.UnusedDinBitsChangeNothing := by
  intro v w s hcmd hunused
  suffices hdecode : decodeCommand v = decodeCommand w from congrArg (exec · s) hdecode
  obtain hv | hv | ⟨hv, hbyte⟩ := hunused
  · rw [commandOf_of_cmd_eq hv, commandOf_of_cmd_eq (hcmd.symm.trans hv), decodeCommand_cmd00, decodeCommand_cmd00]
  · rw [commandOf_of_cmd_eq hv, commandOf_of_cmd_eq (hcmd.symm.trans hv), decodeCommand_cmd01, decodeCommand_cmd01]
  · rw [commandOf_of_cmd_eq hv, commandOf_of_cmd_eq (hcmd.symm.trans hv), decodeCommand_cmd10, decodeCommand_cmd10,
      extractLsb'_commandDin_low, extractLsb'_commandDin_low, hbyte]

/-- Settles O16: stripping keeps a line without a semicolon and drops all from the semicolon on. -/
theorem commentsDoNotChangeALine : Obligations.CommentsDoNotChangeALine := by
  intro line comment h
  have hstrip : stripComment (line ++ ';' :: comment) = stripComment line :=
    calc stripComment (line ++ ';' :: comment)
        = line ++ stripComment (';' :: comment) := stripComment_append h _
      _ = line ++ stripComment [] := rfl
      _ = stripComment (line ++ []) := (stripComment_append h []).symm
      _ = stripComment line := by rw [List.append_nil]
  rw [parseLine, hstrip, parseLine]

/-- Settles O20: by length, and for five bytes by the bits above CMD. -/
theorem onlyMisshapenBytesAreRefused : Obligations.OnlyMisshapenBytesAreRefused := by
  intro bs
  refine ⟨fun hlen => ?_, fun hlen => ?_, fun hlen => ?_, fun c rest hbs hlen => ?_⟩
  · have herr := ofBytes_of_length_ne (bs := bs) (by omega) (by omega)
    rw [if_pos hlen] at herr
    exact decodeBytes_of_error herr
  · have herr := ofBytes_of_length_ne (bs := bs) (by omega) (by omega)
    rw [if_neg (by omega)] at herr
    exact decodeBytes_of_error herr
  · obtain ⟨b0, b1, b2, b3, rfl⟩ := List.length_eq_four.1 hlen
    exact ⟨_, decodeBytes_of_ok rfl⟩
  · obtain ⟨b0, b1, b2, b3, rfl⟩ := List.length_eq_four.1 hlen
    subst hbs
    rw [← extractLsb'_top_eq_zero_iff, ← not_lt, ← extractLsb'_top_eq_zero_iff]
    exact ⟨fun htop => ⟨_, decodeBytes_of_ok (if_pos htop)⟩, fun htop => decodeBytes_of_error (if_neg htop)⟩

/-- Settles O25: the count goes from three to four, and the shift brings D8 to D16. -/
theorem fourthByteCompletesTheFrame : Obligations.FourthByteCompletesTheFrame := by
  intro b s h3
  have hshort : s.rxcnt < 4#3 := show s.rxcnt.toNat < 4 by omega
  have hcount : (s.acceptByte b).rxcnt = 4#3 :=
    BitVec.eq_of_toNat_eq ((toNat_acceptByte_rxcnt b hshort).trans (congrArg (· + 1) h3))
  refine ⟨s.acceptByte b, rfl, hcount, ?_, out_status_of_short hshort, ?_, (out_cjValid_iff _).2 hcount⟩
  · rw [s.acceptByte_of_lt b hshort, State.capture_frame, toNat_shiftByteIn]
  · rw [out_status_of_four hcount, getLsbD_acceptByte_frame b hshort]
    rfl

/-- Settles O30: NOP changes nothing, and a complete frame takes no byte. -/
theorem completeFramesStayUntilReplaced : Obligations.CompleteFramesStayUntilReplaced := by
  intro xs s h4 hxs
  rw [runInputs_eq_foldl]
  induction xs with
  | nil => rfl
  | cons x xs ih =>
    obtain ⟨hx, hrest⟩ := List.forall_mem_cons.1 hxs
    have hstays : s.afterInput x = s := by
      obtain ⟨w, rfl, hw | ⟨b, hw⟩⟩ := hx
      · exact s.afterInput_nop hw
      · exact (s.afterInput_push hw).trans (State.acceptByte_of_four h4 b)
    rw [List.foldl_cons, hstays]
    exact ih hrest

/-- Settles O50: each READ records out(s), which reads neither the sample nor the queue. -/
theorem readSamplesThePortsOnly : Obligations.ReadSamplesThePortsOnly := by
  intro s
  refine ⟨runInputs_read [] s, ?_⟩
  rw [runInputs_read, runInputs_read]
  rfl

/-- Settles O55: after four bytes the frame is complete, and every further PUSH is dropped. -/
theorem extraTransportBytesAreDropped : Obligations.ExtraTransportBytesAreDropped := by
  intro unitCode bs s h
  have hread (result : Ports → ReadResult) : readWith result bs s = readWith result (bs.take 4) s := by
    rw [readWith_eq, readWith_eq, State.acquire_take_four h]
  exact ⟨hread _, hread _⟩

/-- Settles O1: fetch by the kind of the next input. -/
theorem stepRunsTheNextInput : Obligations.StepRunsTheNextInput := fun _ _ =>
  ⟨fun _ h => step_of_run (fetch_command h), fun _ h => step_of_done (fetch_reset h),
    fun h h4 => step_of_run (fetch_read_whole h h4), fun h h4 => step_of_done (fetch_read_short h h4),
    fun h => step_of_done (fetch_idle h)⟩

/-- Settles O2: a word's bytes decode to what the word does, which is what the step runs. -/
theorem stepRunsTheDecodedInstruction : Obligations.StepRunsTheDecodedInstruction := by
  intro s i rest _
  refine ⟨fun w h hbytes => ?_, fun h h4 hbytes => ?_⟩
  · cases (decodeBytes_bytes _).symm.trans hbytes
    exact step_of_run (fetch_command h)
  · cases (decodeBytes_bytes _).symm.trans hbytes
    exact step_of_run (fetch_read_whole h h4)

/-- Settles O8: both registers are zero, and nothing is sampled. -/
theorem resetMeetsTheInvariant : Obligations.ResetMeetsTheInvariant := ⟨legalCapture_zero, nofun⟩

/-- Settles O21: the decoder run on each word. -/
theorem sampleWordsDecode : Obligations.SampleWordsDecode := by
  unfold Obligations.SampleWordsDecode
  decide

/-- Settles O49: every class records through the same gate, which a short count closes. -/
theorem noClassAppliesToAShortFrame : Obligations.NoClassAppliesToAShortFrame := by
  intro f s hn i hi
  obtain ⟨k, st, hexec⟩ : ∃ k st, exec i s = .next (s.recordClass f k st) := by
    simp only [List.mem_cons, List.not_mem_nil, or_false] at hi
    obtain rfl | rfl | rfl | rfl | rfl := hi
    · exact ⟨_, _, rfl⟩
    · exact ⟨_, _, rfl⟩
    · exact ⟨_, _, rfl⟩
    · exact ⟨_, _, rfl⟩
    · exact ⟨_, _, rfl⟩
  obtain ⟨p, hp, hports⟩ := State.recordClass_of_short (s := s) hn f k st
  exact ⟨_, p, hexec, hp, hports⟩

/-- Settles O57: by STATUS, each result looks at the ports it qualifies. -/
theorem hostIgnoresUnqualifiedPorts : Obligations.HostIgnoresUnqualifiedPorts := by
  intro u p q hstatus htc hkind hcj
  refine ⟨?_, ?_, ?_, ?_⟩
  · exact result_eq_of_tcCode_faultKind hstatus (fun k => .err (.sensor k))
      (fun code => .ok (convert (.ofCode u) (tcCelsius code))) (temperatureResult_malformed u)
      (temperatureResult_fault u) (temperatureResult_ok u) htc hkind
  · exact result_eq_of_cjCode hstatus (fun code => .ok (cjCelsius code)) coldJunctionResult_malformed
      coldJunctionResult_whole hcj
  · exact result_eq_of_tcCode_faultKind hstatus (fun k => .err (.sensor k))
      (fun code => .ok (convertIn Config.hostSignificand (.ofCode u) (tcCelsius code)))
      (temperatureFloatIn_malformed _ u) (temperatureFloatIn_fault _ u) (temperatureFloatIn_ok _ u) htc hkind
  · exact result_eq_of_cjCode hstatus (fun code => .ok (heldIn Config.hostSignificand (cjCelsius code)))
      (coldJunctionFloatIn_malformed _) (coldJunctionFloatIn_whole _) hcj

end Sys2Proof.Proofs
end
